-- ==== Sys2Proof/Word.lean ====
section
/-! DEFINITION. The two widths of the machine's values (spec/00_scope.md rules R6, R8). -/

namespace Sys2Proof

/-- An 8-bit quantity: A, B, DP, a memory byte, an 8-bit immediate. -/
abbrev Byte := BitVec 8

/-- A 16-bit quantity: D, X, Y, U, S, PC, a virtual address, a 16-bit immediate. -/
abbrev Word := BitVec 16

end Sys2Proof
end

