-- ==== Sys2Proof/Config.lean ====
section
/-! DEFINITION. What an implementation fixes: the OPEN parameters of spec/00_scope.md rule R6, the constants of
the same table, and the free values (draws) of spec/92_eei_decisions.md. -/

namespace Sys2Proof

/-- `UNDEF_FLAGS` (R6, D4): what becomes of a flag the MC6809 leaves undefined. -/
inductive UndefFlags where
  | draw | unchanged
deriving DecidableEq, Repr

/-- `SEX_V` (R6, D6): what SEX does to V. -/
inductive SexV where
  | unchanged | cleared
deriving DecidableEq, Repr

/-- `PCR_REG_BITS` (R6, R211, D8): how bits 6..5 of a PC-relative or `[n16]` postbyte are treated. -/
inductive PcrRegBits where
  | ignored | malformed
deriving DecidableEq, Repr

/-- The OPEN parameters of R6. They stand in the state and no step changes them, so that a statement over all
states holds for every setting (log entry 5). -/
structure Config where
  undefFlags   : UndefFlags
  sexV         : SexV
  pcrRegBits   : PcrRegBits
  resetRomMode : BitVec 2
deriving DecidableEq, Repr

/-- The defaults R6 names. DESIGN CHOICE (log entry 5): State.reset takes them. -/
def Config.default : Config :=
  { undefFlags := .draw, sexV := .unchanged, pcrRegBits := .ignored, resetRomMode := 0 }

/-- The n-th drawn flag: no body, so nothing can be proved of its value (log entry 8). -/
opaque Config.freeBit : Nat → Bool

/-- The n-th drawn byte: no body, so nothing can be proved of its value (log entry 8). -/
opaque Config.freeByte : Nat → Byte

/-- The n-th drawn word: no body, so nothing can be proved of its value (log entry 8). -/
opaque Config.freeWord : Nat → Word

/-- `WAIT_TICKS`, the tick count of a step that only waits (R6, D15). -/
def Config.waitTicks : Nat := 1

/-- `IO_BASE`, the lowest address of the I/O window (R6, R113, D17). -/
def Config.ioBase : Nat := 0xFF00

/-- The lowest address of the vector window (R6, R112). -/
def Config.vectorBase : Nat := 0xFFF0

/-- `RAM_SIZE`, 512 KiB (R6, D20). -/
def Config.ramSize : Nat := 0x80000

/-- The size of `SYS_ROM`, 32 KiB, and the largest size of `CART_ROM` (R6, D20). -/
def Config.romSize : Nat := 0x8000

end Sys2Proof
end

