-- ==== Sys2Proof/Machine/Bits.lean ====
section
/-! DEFINITION. Byte order, bit fields and sign extension (spec/00_scope.md rules R7, R9, R10). -/

namespace Sys2Proof.Machine

/-- Concatenation `hi:lo` (R10). -/
def word (hi lo : Byte) : Word := hi ++ lo

/-- The more significant byte of a word, `v[15:8]` (R7). -/
def hiByte (v : Word) : Byte := v.extractLsb' 8 8

/-- The less significant byte of a word, `v[7:0]` (R7). -/
def loByte (v : Word) : Byte := v.extractLsb' 0 8

/-- `sext_16` of a byte (R9). -/
def sext8 (v : Byte) : Word := v.signExtend 16

/-- `sext_16` of a 5-bit offset (R9). -/
def sext5 (v : BitVec 5) : Word := v.signExtend 16

/-- `zext_16` of a byte (R9). -/
def zext8 (v : Byte) : Word := v.setWidth 16

end Sys2Proof.Machine
end

