-- ==== Sys2Proof/Syntax/Forms.lean ====
section
/-! DEFINITION. The operand forms of the instruction set (spec/30_encoding.md rule R163, spec/40_addressing.md
rules R200-R228, spec/46_stack_transfer.md rule R508). Illegal indexed postbytes (R227) have no form here. -/

namespace Sys2Proof

/-- The index registers, selected by bits 6..5 of an indexed postbyte (R211). -/
inductive IndexReg where
  | x | y | u | s
deriving DecidableEq, Repr

/-- The indexed sub-modes (R210, R212-R225). `ind` is the indirect flag, bit 4 of the postbyte (R226);
the forms without one have no indirect variant (R212, R213, R215), and `[n16]` is always indirect (R225). -/
inductive Indexed where
  | off5 (r : IndexReg) (n : BitVec 5)
  | postInc1 (r : IndexReg)
  | postInc2 (r : IndexReg) (ind : Bool)
  | preDec1 (r : IndexReg)
  | preDec2 (r : IndexReg) (ind : Bool)
  | zero (r : IndexReg) (ind : Bool)
  | accB (r : IndexReg) (ind : Bool)
  | accA (r : IndexReg) (ind : Bool)
  | off8 (r : IndexReg) (n : Byte) (ind : Bool)
  | off16 (r : IndexReg) (n : Word) (ind : Bool)
  | accD (r : IndexReg) (ind : Bool)
  | pcr8 (n : Byte) (ind : Bool)
  | pcr16 (n : Word) (ind : Bool)
  | extInd (p : Word)
deriving DecidableEq, Repr

/-- A memory operand: the direct, extended and indexed modes (R203-R205), each of which gives an effective address. -/
inductive MemOperand where
  | dir (d : Byte)
  | ext (a : Word)
  | idx (ix : Indexed)
deriving DecidableEq, Repr

/-- The operand of an 8-bit operation that reads one (R202, R207). -/
inductive Operand8 where
  | imm (v : Byte)
  | mem (m : MemOperand)
deriving DecidableEq, Repr

/-- The operand of a 16-bit operation that reads one (R202, R207). -/
inductive Operand16 where
  | imm (v : Word)
  | mem (m : MemOperand)
deriving DecidableEq, Repr

/-- The registers an EXG/TFR postbyte can name (R508). -/
inductive Reg where
  | d | x | y | u | s | pc | a | b | cc | dp
deriving DecidableEq, Repr

end Sys2Proof
end

