-- ==== Sys2Proof/Syntax.lean ====
section
/-! DEFINITION. The instructions: one constructor per mnemonic of spec/opcode_table.json (132), whose operand argument
holds the addressing form, so that a row of the table (268) is a constructor together with an operand form.
LSL, BCC, BCS, LBCC and LBCS are other names of ASL, BHS, BLO, LBHS and LBLO (spec/30_encoding.md rule R181). -/

namespace Sys2Proof

/-- The MC6809 instructions (spec/30_encoding.md rule R175). -/
inductive Instr where
  -- Loads, stores and effective-address loads (spec/41_load_store.md)
  | lda (o : Operand8)
  | ldb (o : Operand8)
  | ldd (o : Operand16)
  | ldx (o : Operand16)
  | ldy (o : Operand16)
  | ldu (o : Operand16)
  | lds (o : Operand16)
  | sta (m : MemOperand)
  | stb (m : MemOperand)
  | std (m : MemOperand)
  | stx (m : MemOperand)
  | sty (m : MemOperand)
  | stu (m : MemOperand)
  | sts (m : MemOperand)
  | leax (ix : Indexed)
  | leay (ix : Indexed)
  | leau (ix : Indexed)
  | leas (ix : Indexed)
  -- 8-bit accumulator arithmetic and logic (spec/42_alu8.md)
  | adda (o : Operand8)
  | addb (o : Operand8)
  | adca (o : Operand8)
  | adcb (o : Operand8)
  | suba (o : Operand8)
  | subb (o : Operand8)
  | sbca (o : Operand8)
  | sbcb (o : Operand8)
  | cmpa (o : Operand8)
  | cmpb (o : Operand8)
  | anda (o : Operand8)
  | andb (o : Operand8)
  | ora (o : Operand8)
  | orb (o : Operand8)
  | eora (o : Operand8)
  | eorb (o : Operand8)
  | bita (o : Operand8)
  | bitb (o : Operand8)
  | andcc (v : Byte)
  | orcc (v : Byte)
  | daa
  | mul
  | sex
  | abx
  -- Unary operations on A, B and memory (spec/43_unary_rmw.md)
  | nega
  | negb
  | neg (m : MemOperand)
  | coma
  | comb
  | com (m : MemOperand)
  | lsra
  | lsrb
  | lsr (m : MemOperand)
  | rora
  | rorb
  | ror (m : MemOperand)
  | asra
  | asrb
  | asr (m : MemOperand)
  | asla
  | aslb
  | asl (m : MemOperand)
  | rola
  | rolb
  | rol (m : MemOperand)
  | deca
  | decb
  | dec (m : MemOperand)
  | inca
  | incb
  | inc (m : MemOperand)
  | tsta
  | tstb
  | tst (m : MemOperand)
  | clra
  | clrb
  | clr (m : MemOperand)
  -- 16-bit arithmetic and compares (spec/44_alu16.md)
  | addd (o : Operand16)
  | subd (o : Operand16)
  | cmpd (o : Operand16)
  | cmpx (o : Operand16)
  | cmpy (o : Operand16)
  | cmpu (o : Operand16)
  | cmps (o : Operand16)
  -- Branches, jumps and subroutine calls (spec/45_control.md)
  | bra (o : Byte)
  | brn (o : Byte)
  | bhi (o : Byte)
  | bls (o : Byte)
  | bhs (o : Byte)
  | blo (o : Byte)
  | bne (o : Byte)
  | beq (o : Byte)
  | bvc (o : Byte)
  | bvs (o : Byte)
  | bpl (o : Byte)
  | bmi (o : Byte)
  | bge (o : Byte)
  | blt (o : Byte)
  | bgt (o : Byte)
  | ble (o : Byte)
  | lbra (o : Word)
  | lbrn (o : Word)
  | lbhi (o : Word)
  | lbls (o : Word)
  | lbhs (o : Word)
  | lblo (o : Word)
  | lbne (o : Word)
  | lbeq (o : Word)
  | lbvc (o : Word)
  | lbvs (o : Word)
  | lbpl (o : Word)
  | lbmi (o : Word)
  | lbge (o : Word)
  | lblt (o : Word)
  | lbgt (o : Word)
  | lble (o : Word)
  | bsr (o : Byte)
  | lbsr (o : Word)
  | jmp (m : MemOperand)
  | jsr (m : MemOperand)
  | rts
  -- Push, pull and register transfer (spec/46_stack_transfer.md)
  | pshs (m : Byte)
  | puls (m : Byte)
  | pshu (m : Byte)
  | pulu (m : Byte)
  | tfr (r1 r2 : Reg)
  | exg (r1 r2 : Reg)
  -- System instructions (spec/47_system.md)
  | nop
  | swi
  | swi2
  | swi3
  | rti
  | cwai (v : Byte)
  | sync
deriving DecidableEq, Repr

end Sys2Proof
end

