-- ==== Sys2Proof/WellFormed.lean ====
section
/-! DEFINITION. Which instructions of the syntax the machine has an encoding for. Every indexed form and every
immediate is encodable by construction; the one check is the pair of EXG and TFR (spec/46_stack_transfer.md
rule R509). -/

namespace Sys2Proof

/-- Whether a register is 16 bits wide (R508). -/
def Reg.isWord : Reg → Bool
  | .d | .x | .y | .u | .s | .pc => true
  | .a | .b | .cc | .dp => false

/-- A pair of EXG or TFR is defined iff both registers have the same width (R509). -/
def pairDefined (r1 r2 : Reg) : Bool := r1.isWord == r2.isWord

/-- The instructions that have an encoding: all, but EXG and TFR of registers of different widths (R509). -/
def Instr.wf : Instr → Bool
  | .exg r1 r2 => pairDefined r1 r2
  | .tfr r1 r2 => pairDefined r1 r2
  | _ => true

end Sys2Proof
end

