-- ==== Sys2Proof/Decode.lean ====
section
/-! DEFINITION. The decoder, total on any bytes, and the encoder (spec/30_encoding.md rules R160-R179,
spec/40_addressing.md rules R210-R228, spec/46_stack_transfer.md rules R508, R509). -/

namespace Sys2Proof

open Sys2Proof.Machine (word hiByte loByte)

/-- The format of an opcode's operand bytes (R163) with the instruction they make. The displacement of a short
(long) branch and the mask of PSH/PUL are fetched as a byte (word), as `imm8` (`imm16`) says (R170, R172). -/
inductive Format where
  | inh (i : Instr)
  | imm8 (f : Byte → Instr)
  | imm16 (f : Word → Instr)
  | dir (f : Byte → Instr)
  | ext (f : Word → Instr)
  | idx (f : Indexed → Instr)
  | pair (f : Reg → Reg → Instr)

/-- What the decoder answers on the bytes it is given. -/
inductive Decoded where
  /-- the instruction and the bytes left over -/
  | instr (i : Instr) (rest : List Byte)
  /-- the bytes end before the instruction does -/
  | more
  /-- an opcode value without a descriptor (R176, R177, R603) -/
  | undefinedOpcode (op : Word)
  /-- a postbyte that encodes an undefined combination (R178, R605) -/
  | malformedOperand (pb : Byte)
deriving DecidableEq, Repr

/-- The page-1 opcodes, the 221 one-byte rows of R175. -/
def page1 : Nat → Option Format
  | 0x00 => some (.dir fun d => .neg (.dir d))
  | 0x03 => some (.dir fun d => .com (.dir d))
  | 0x04 => some (.dir fun d => .lsr (.dir d))
  | 0x06 => some (.dir fun d => .ror (.dir d))
  | 0x07 => some (.dir fun d => .asr (.dir d))
  | 0x08 => some (.dir fun d => .asl (.dir d))
  | 0x09 => some (.dir fun d => .rol (.dir d))
  | 0x0A => some (.dir fun d => .dec (.dir d))
  | 0x0C => some (.dir fun d => .inc (.dir d))
  | 0x0D => some (.dir fun d => .tst (.dir d))
  | 0x0E => some (.dir fun d => .jmp (.dir d))
  | 0x0F => some (.dir fun d => .clr (.dir d))
  | 0x12 => some (.inh .nop)
  | 0x13 => some (.inh .sync)
  | 0x16 => some (.imm16 .lbra)
  | 0x17 => some (.imm16 .lbsr)
  | 0x19 => some (.inh .daa)
  | 0x1A => some (.imm8 .orcc)
  | 0x1C => some (.imm8 .andcc)
  | 0x1D => some (.inh .sex)
  | 0x1E => some (.pair .exg)
  | 0x1F => some (.pair .tfr)
  | 0x20 => some (.imm8 .bra)
  | 0x21 => some (.imm8 .brn)
  | 0x22 => some (.imm8 .bhi)
  | 0x23 => some (.imm8 .bls)
  | 0x24 => some (.imm8 .bhs)
  | 0x25 => some (.imm8 .blo)
  | 0x26 => some (.imm8 .bne)
  | 0x27 => some (.imm8 .beq)
  | 0x28 => some (.imm8 .bvc)
  | 0x29 => some (.imm8 .bvs)
  | 0x2A => some (.imm8 .bpl)
  | 0x2B => some (.imm8 .bmi)
  | 0x2C => some (.imm8 .bge)
  | 0x2D => some (.imm8 .blt)
  | 0x2E => some (.imm8 .bgt)
  | 0x2F => some (.imm8 .ble)
  | 0x30 => some (.idx .leax)
  | 0x31 => some (.idx .leay)
  | 0x32 => some (.idx .leas)
  | 0x33 => some (.idx .leau)
  | 0x34 => some (.imm8 .pshs)
  | 0x35 => some (.imm8 .puls)
  | 0x36 => some (.imm8 .pshu)
  | 0x37 => some (.imm8 .pulu)
  | 0x39 => some (.inh .rts)
  | 0x3A => some (.inh .abx)
  | 0x3B => some (.inh .rti)
  | 0x3C => some (.imm8 .cwai)
  | 0x3D => some (.inh .mul)
  | 0x3F => some (.inh .swi)
  | 0x40 => some (.inh .nega)
  | 0x43 => some (.inh .coma)
  | 0x44 => some (.inh .lsra)
  | 0x46 => some (.inh .rora)
  | 0x47 => some (.inh .asra)
  | 0x48 => some (.inh .asla)
  | 0x49 => some (.inh .rola)
  | 0x4A => some (.inh .deca)
  | 0x4C => some (.inh .inca)
  | 0x4D => some (.inh .tsta)
  | 0x4F => some (.inh .clra)
  | 0x50 => some (.inh .negb)
  | 0x53 => some (.inh .comb)
  | 0x54 => some (.inh .lsrb)
  | 0x56 => some (.inh .rorb)
  | 0x57 => some (.inh .asrb)
  | 0x58 => some (.inh .aslb)
  | 0x59 => some (.inh .rolb)
  | 0x5A => some (.inh .decb)
  | 0x5C => some (.inh .incb)
  | 0x5D => some (.inh .tstb)
  | 0x5F => some (.inh .clrb)
  | 0x60 => some (.idx fun ix => .neg (.idx ix))
  | 0x63 => some (.idx fun ix => .com (.idx ix))
  | 0x64 => some (.idx fun ix => .lsr (.idx ix))
  | 0x66 => some (.idx fun ix => .ror (.idx ix))
  | 0x67 => some (.idx fun ix => .asr (.idx ix))
  | 0x68 => some (.idx fun ix => .asl (.idx ix))
  | 0x69 => some (.idx fun ix => .rol (.idx ix))
  | 0x6A => some (.idx fun ix => .dec (.idx ix))
  | 0x6C => some (.idx fun ix => .inc (.idx ix))
  | 0x6D => some (.idx fun ix => .tst (.idx ix))
  | 0x6E => some (.idx fun ix => .jmp (.idx ix))
  | 0x6F => some (.idx fun ix => .clr (.idx ix))
  | 0x70 => some (.ext fun a => .neg (.ext a))
  | 0x73 => some (.ext fun a => .com (.ext a))
  | 0x74 => some (.ext fun a => .lsr (.ext a))
  | 0x76 => some (.ext fun a => .ror (.ext a))
  | 0x77 => some (.ext fun a => .asr (.ext a))
  | 0x78 => some (.ext fun a => .asl (.ext a))
  | 0x79 => some (.ext fun a => .rol (.ext a))
  | 0x7A => some (.ext fun a => .dec (.ext a))
  | 0x7C => some (.ext fun a => .inc (.ext a))
  | 0x7D => some (.ext fun a => .tst (.ext a))
  | 0x7E => some (.ext fun a => .jmp (.ext a))
  | 0x7F => some (.ext fun a => .clr (.ext a))
  | 0x80 => some (.imm8 fun v => .suba (.imm v))
  | 0x81 => some (.imm8 fun v => .cmpa (.imm v))
  | 0x82 => some (.imm8 fun v => .sbca (.imm v))
  | 0x83 => some (.imm16 fun v => .subd (.imm v))
  | 0x84 => some (.imm8 fun v => .anda (.imm v))
  | 0x85 => some (.imm8 fun v => .bita (.imm v))
  | 0x86 => some (.imm8 fun v => .lda (.imm v))
  | 0x88 => some (.imm8 fun v => .eora (.imm v))
  | 0x89 => some (.imm8 fun v => .adca (.imm v))
  | 0x8A => some (.imm8 fun v => .ora (.imm v))
  | 0x8B => some (.imm8 fun v => .adda (.imm v))
  | 0x8C => some (.imm16 fun v => .cmpx (.imm v))
  | 0x8D => some (.imm8 .bsr)
  | 0x8E => some (.imm16 fun v => .ldx (.imm v))
  | 0x90 => some (.dir fun d => .suba (.mem (.dir d)))
  | 0x91 => some (.dir fun d => .cmpa (.mem (.dir d)))
  | 0x92 => some (.dir fun d => .sbca (.mem (.dir d)))
  | 0x93 => some (.dir fun d => .subd (.mem (.dir d)))
  | 0x94 => some (.dir fun d => .anda (.mem (.dir d)))
  | 0x95 => some (.dir fun d => .bita (.mem (.dir d)))
  | 0x96 => some (.dir fun d => .lda (.mem (.dir d)))
  | 0x97 => some (.dir fun d => .sta (.dir d))
  | 0x98 => some (.dir fun d => .eora (.mem (.dir d)))
  | 0x99 => some (.dir fun d => .adca (.mem (.dir d)))
  | 0x9A => some (.dir fun d => .ora (.mem (.dir d)))
  | 0x9B => some (.dir fun d => .adda (.mem (.dir d)))
  | 0x9C => some (.dir fun d => .cmpx (.mem (.dir d)))
  | 0x9D => some (.dir fun d => .jsr (.dir d))
  | 0x9E => some (.dir fun d => .ldx (.mem (.dir d)))
  | 0x9F => some (.dir fun d => .stx (.dir d))
  | 0xA0 => some (.idx fun ix => .suba (.mem (.idx ix)))
  | 0xA1 => some (.idx fun ix => .cmpa (.mem (.idx ix)))
  | 0xA2 => some (.idx fun ix => .sbca (.mem (.idx ix)))
  | 0xA3 => some (.idx fun ix => .subd (.mem (.idx ix)))
  | 0xA4 => some (.idx fun ix => .anda (.mem (.idx ix)))
  | 0xA5 => some (.idx fun ix => .bita (.mem (.idx ix)))
  | 0xA6 => some (.idx fun ix => .lda (.mem (.idx ix)))
  | 0xA7 => some (.idx fun ix => .sta (.idx ix))
  | 0xA8 => some (.idx fun ix => .eora (.mem (.idx ix)))
  | 0xA9 => some (.idx fun ix => .adca (.mem (.idx ix)))
  | 0xAA => some (.idx fun ix => .ora (.mem (.idx ix)))
  | 0xAB => some (.idx fun ix => .adda (.mem (.idx ix)))
  | 0xAC => some (.idx fun ix => .cmpx (.mem (.idx ix)))
  | 0xAD => some (.idx fun ix => .jsr (.idx ix))
  | 0xAE => some (.idx fun ix => .ldx (.mem (.idx ix)))
  | 0xAF => some (.idx fun ix => .stx (.idx ix))
  | 0xB0 => some (.ext fun a => .suba (.mem (.ext a)))
  | 0xB1 => some (.ext fun a => .cmpa (.mem (.ext a)))
  | 0xB2 => some (.ext fun a => .sbca (.mem (.ext a)))
  | 0xB3 => some (.ext fun a => .subd (.mem (.ext a)))
  | 0xB4 => some (.ext fun a => .anda (.mem (.ext a)))
  | 0xB5 => some (.ext fun a => .bita (.mem (.ext a)))
  | 0xB6 => some (.ext fun a => .lda (.mem (.ext a)))
  | 0xB7 => some (.ext fun a => .sta (.ext a))
  | 0xB8 => some (.ext fun a => .eora (.mem (.ext a)))
  | 0xB9 => some (.ext fun a => .adca (.mem (.ext a)))
  | 0xBA => some (.ext fun a => .ora (.mem (.ext a)))
  | 0xBB => some (.ext fun a => .adda (.mem (.ext a)))
  | 0xBC => some (.ext fun a => .cmpx (.mem (.ext a)))
  | 0xBD => some (.ext fun a => .jsr (.ext a))
  | 0xBE => some (.ext fun a => .ldx (.mem (.ext a)))
  | 0xBF => some (.ext fun a => .stx (.ext a))
  | 0xC0 => some (.imm8 fun v => .subb (.imm v))
  | 0xC1 => some (.imm8 fun v => .cmpb (.imm v))
  | 0xC2 => some (.imm8 fun v => .sbcb (.imm v))
  | 0xC3 => some (.imm16 fun v => .addd (.imm v))
  | 0xC4 => some (.imm8 fun v => .andb (.imm v))
  | 0xC5 => some (.imm8 fun v => .bitb (.imm v))
  | 0xC6 => some (.imm8 fun v => .ldb (.imm v))
  | 0xC8 => some (.imm8 fun v => .eorb (.imm v))
  | 0xC9 => some (.imm8 fun v => .adcb (.imm v))
  | 0xCA => some (.imm8 fun v => .orb (.imm v))
  | 0xCB => some (.imm8 fun v => .addb (.imm v))
  | 0xCC => some (.imm16 fun v => .ldd (.imm v))
  | 0xCE => some (.imm16 fun v => .ldu (.imm v))
  | 0xD0 => some (.dir fun d => .subb (.mem (.dir d)))
  | 0xD1 => some (.dir fun d => .cmpb (.mem (.dir d)))
  | 0xD2 => some (.dir fun d => .sbcb (.mem (.dir d)))
  | 0xD3 => some (.dir fun d => .addd (.mem (.dir d)))
  | 0xD4 => some (.dir fun d => .andb (.mem (.dir d)))
  | 0xD5 => some (.dir fun d => .bitb (.mem (.dir d)))
  | 0xD6 => some (.dir fun d => .ldb (.mem (.dir d)))
  | 0xD7 => some (.dir fun d => .stb (.dir d))
  | 0xD8 => some (.dir fun d => .eorb (.mem (.dir d)))
  | 0xD9 => some (.dir fun d => .adcb (.mem (.dir d)))
  | 0xDA => some (.dir fun d => .orb (.mem (.dir d)))
  | 0xDB => some (.dir fun d => .addb (.mem (.dir d)))
  | 0xDC => some (.dir fun d => .ldd (.mem (.dir d)))
  | 0xDD => some (.dir fun d => .std (.dir d))
  | 0xDE => some (.dir fun d => .ldu (.mem (.dir d)))
  | 0xDF => some (.dir fun d => .stu (.dir d))
  | 0xE0 => some (.idx fun ix => .subb (.mem (.idx ix)))
  | 0xE1 => some (.idx fun ix => .cmpb (.mem (.idx ix)))
  | 0xE2 => some (.idx fun ix => .sbcb (.mem (.idx ix)))
  | 0xE3 => some (.idx fun ix => .addd (.mem (.idx ix)))
  | 0xE4 => some (.idx fun ix => .andb (.mem (.idx ix)))
  | 0xE5 => some (.idx fun ix => .bitb (.mem (.idx ix)))
  | 0xE6 => some (.idx fun ix => .ldb (.mem (.idx ix)))
  | 0xE7 => some (.idx fun ix => .stb (.idx ix))
  | 0xE8 => some (.idx fun ix => .eorb (.mem (.idx ix)))
  | 0xE9 => some (.idx fun ix => .adcb (.mem (.idx ix)))
  | 0xEA => some (.idx fun ix => .orb (.mem (.idx ix)))
  | 0xEB => some (.idx fun ix => .addb (.mem (.idx ix)))
  | 0xEC => some (.idx fun ix => .ldd (.mem (.idx ix)))
  | 0xED => some (.idx fun ix => .std (.idx ix))
  | 0xEE => some (.idx fun ix => .ldu (.mem (.idx ix)))
  | 0xEF => some (.idx fun ix => .stu (.idx ix))
  | 0xF0 => some (.ext fun a => .subb (.mem (.ext a)))
  | 0xF1 => some (.ext fun a => .cmpb (.mem (.ext a)))
  | 0xF2 => some (.ext fun a => .sbcb (.mem (.ext a)))
  | 0xF3 => some (.ext fun a => .addd (.mem (.ext a)))
  | 0xF4 => some (.ext fun a => .andb (.mem (.ext a)))
  | 0xF5 => some (.ext fun a => .bitb (.mem (.ext a)))
  | 0xF6 => some (.ext fun a => .ldb (.mem (.ext a)))
  | 0xF7 => some (.ext fun a => .stb (.ext a))
  | 0xF8 => some (.ext fun a => .eorb (.mem (.ext a)))
  | 0xF9 => some (.ext fun a => .adcb (.mem (.ext a)))
  | 0xFA => some (.ext fun a => .orb (.mem (.ext a)))
  | 0xFB => some (.ext fun a => .addb (.mem (.ext a)))
  | 0xFC => some (.ext fun a => .ldd (.mem (.ext a)))
  | 0xFD => some (.ext fun a => .std (.ext a))
  | 0xFE => some (.ext fun a => .ldu (.mem (.ext a)))
  | 0xFF => some (.ext fun a => .stu (.ext a))
  | _ => none

/-- The page-2 opcodes, the 38 rows of R175 with first byte 0x10. -/
def page2 : Nat → Option Format
  | 0x21 => some (.imm16 .lbrn)
  | 0x22 => some (.imm16 .lbhi)
  | 0x23 => some (.imm16 .lbls)
  | 0x24 => some (.imm16 .lbhs)
  | 0x25 => some (.imm16 .lblo)
  | 0x26 => some (.imm16 .lbne)
  | 0x27 => some (.imm16 .lbeq)
  | 0x28 => some (.imm16 .lbvc)
  | 0x29 => some (.imm16 .lbvs)
  | 0x2A => some (.imm16 .lbpl)
  | 0x2B => some (.imm16 .lbmi)
  | 0x2C => some (.imm16 .lbge)
  | 0x2D => some (.imm16 .lblt)
  | 0x2E => some (.imm16 .lbgt)
  | 0x2F => some (.imm16 .lble)
  | 0x3F => some (.inh .swi2)
  | 0x83 => some (.imm16 fun v => .cmpd (.imm v))
  | 0x8C => some (.imm16 fun v => .cmpy (.imm v))
  | 0x8E => some (.imm16 fun v => .ldy (.imm v))
  | 0x93 => some (.dir fun d => .cmpd (.mem (.dir d)))
  | 0x9C => some (.dir fun d => .cmpy (.mem (.dir d)))
  | 0x9E => some (.dir fun d => .ldy (.mem (.dir d)))
  | 0x9F => some (.dir fun d => .sty (.dir d))
  | 0xA3 => some (.idx fun ix => .cmpd (.mem (.idx ix)))
  | 0xAC => some (.idx fun ix => .cmpy (.mem (.idx ix)))
  | 0xAE => some (.idx fun ix => .ldy (.mem (.idx ix)))
  | 0xAF => some (.idx fun ix => .sty (.idx ix))
  | 0xB3 => some (.ext fun a => .cmpd (.mem (.ext a)))
  | 0xBC => some (.ext fun a => .cmpy (.mem (.ext a)))
  | 0xBE => some (.ext fun a => .ldy (.mem (.ext a)))
  | 0xBF => some (.ext fun a => .sty (.ext a))
  | 0xCE => some (.imm16 fun v => .lds (.imm v))
  | 0xDE => some (.dir fun d => .lds (.mem (.dir d)))
  | 0xDF => some (.dir fun d => .sts (.dir d))
  | 0xEE => some (.idx fun ix => .lds (.mem (.idx ix)))
  | 0xEF => some (.idx fun ix => .sts (.idx ix))
  | 0xFE => some (.ext fun a => .lds (.mem (.ext a)))
  | 0xFF => some (.ext fun a => .sts (.ext a))
  | _ => none

/-- The page-3 opcodes, the 9 rows of R175 with first byte 0x11. -/
def page3 : Nat → Option Format
  | 0x3F => some (.inh .swi3)
  | 0x83 => some (.imm16 fun v => .cmpu (.imm v))
  | 0x8C => some (.imm16 fun v => .cmps (.imm v))
  | 0x93 => some (.dir fun d => .cmpu (.mem (.dir d)))
  | 0x9C => some (.dir fun d => .cmps (.mem (.dir d)))
  | 0xA3 => some (.idx fun ix => .cmpu (.mem (.idx ix)))
  | 0xAC => some (.idx fun ix => .cmps (.mem (.idx ix)))
  | 0xB3 => some (.ext fun a => .cmpu (.mem (.ext a)))
  | 0xBC => some (.ext fun a => .cmps (.mem (.ext a)))
  | _ => none

/-- The code of an index register in bits 6..5 of a postbyte (R211). -/
def IndexReg.code : IndexReg → BitVec 2
  | .x => 0
  | .y => 1
  | .u => 2
  | .s => 3

/-- The index register of a code (R211). -/
def IndexReg.ofCode (c : BitVec 2) : IndexReg :=
  if c = 0 then .x else if c = 1 then .y else if c = 2 then .u else .s

/-- The code of a register in an EXG/TFR postbyte (R508). -/
def Reg.code : Reg → BitVec 4
  | .d => 0x0
  | .x => 0x1
  | .y => 0x2
  | .u => 0x3
  | .s => 0x4
  | .pc => 0x5
  | .a => 0x8
  | .b => 0x9
  | .cc => 0xA
  | .dp => 0xB

/-- The register of a code, where the code is defined (R508). -/
def Reg.ofCode (c : BitVec 4) : Option Reg :=
  match c.toNat with
  | 0x0 => some .d
  | 0x1 => some .x
  | 0x2 => some .y
  | 0x3 => some .u
  | 0x4 => some .s
  | 0x5 => some .pc
  | 0x8 => some .a
  | 0x9 => some .b
  | 0xA => some .cc
  | 0xB => some .dp
  | _ => none

/-- The EXG/TFR postbyte of a pair: the first register in bits 7..4, the second in bits 3..0 (R172). -/
def pairByte (r1 r2 : Reg) : Byte := r1.code ++ r2.code

/-- The pair an EXG/TFR postbyte names, where it is defined (R509). -/
def decodePair (pb : Byte) : Option (Reg × Reg) :=
  match Reg.ofCode (pb.extractLsb' 4 4), Reg.ofCode (pb.extractLsb' 0 4) with
  | some r1, some r2 => if pairDefined r1 r2 then some (r1, r2) else none
  | _, _ => none

/-- What an indexed postbyte asks for: a complete form, one or two offset bytes more, or nothing defined. -/
inductive Postbyte where
  | done (ix : Indexed)
  | offset8 (f : Byte → Indexed)
  | offset16 (f : Word → Indexed)
  | illegal

/-- Whether the register bits of a PC-relative or `[n16]` postbyte are admitted (R211, `PCR_REG_BITS`). -/
def pcrAdmitted (p : PcrRegBits) (pb : Byte) : Bool :=
  match p with
  | .ignored => true
  | .malformed => pb.extractLsb' 5 2 == 0

/-- The indexed postbyte decode (R210-R227). -/
def decodePostbyte (p : PcrRegBits) (pb : Byte) : Postbyte :=
  let r := IndexReg.ofCode (pb.extractLsb' 5 2)
  let ind := pb.getLsbD 4
  if pb.getLsbD 7 = false then .done (.off5 r (pb.extractLsb' 0 5))
  else match (pb.extractLsb' 0 5).toNat with
    | 0x00 => .done (.postInc1 r)
    | 0x01 | 0x11 => .done (.postInc2 r ind)
    | 0x02 => .done (.preDec1 r)
    | 0x03 | 0x13 => .done (.preDec2 r ind)
    | 0x04 | 0x14 => .done (.zero r ind)
    | 0x05 | 0x15 => .done (.accB r ind)
    | 0x06 | 0x16 => .done (.accA r ind)
    | 0x08 | 0x18 => .offset8 fun n => .off8 r n ind
    | 0x09 | 0x19 => .offset16 fun n => .off16 r n ind
    | 0x0B | 0x1B => .done (.accD r ind)
    | 0x0C | 0x1C => if pcrAdmitted p pb then .offset8 fun n => .pcr8 n ind else .illegal
    | 0x0D | 0x1D => if pcrAdmitted p pb then .offset16 fun n => .pcr16 n ind else .illegal
    | 0x1F => if pcrAdmitted p pb then .offset16 fun n => .extInd n else .illegal
    | _ => .illegal

/-- One operand byte of an instruction (R166, R168). -/
def decodeByte (f : Byte → Instr) : List Byte → Decoded
  | b :: rest => .instr (f b) rest
  | [] => .more

/-- One operand word of an instruction, high byte first (R103, R166, R168). -/
def decodeWord (f : Word → Instr) : List Byte → Decoded
  | hi :: lo :: rest => .instr (f (word hi lo)) rest
  | _ => .more

/-- An indexed operand: the postbyte and its offset bytes (R205, R210). -/
def decodeIndexed (p : PcrRegBits) (f : Indexed → Instr) : List Byte → Decoded
  | [] => .more
  | pb :: rest =>
    match decodePostbyte p pb with
    | .done ix => .instr (f ix) rest
    | .offset8 g => decodeByte (fun n => f (g n)) rest
    | .offset16 g => decodeWord (fun n => f (g n)) rest
    | .illegal => .malformedOperand pb

/-- An EXG/TFR postbyte (R172, R509). -/
def decodePairByte (f : Reg → Reg → Instr) : List Byte → Decoded
  | [] => .more
  | pb :: rest =>
    match decodePair pb with
    | some (r1, r2) => .instr (f r1 r2) rest
    | none => .malformedOperand pb

/-- The operand bytes of an opcode value, by its format (R163); an opcode value without one is undefined (R603). -/
def decodeFormat (p : PcrRegBits) (op : Word) : Option Format → List Byte → Decoded
  | none, _ => .undefinedOpcode op
  | some (.inh i), bs => .instr i bs
  | some (.imm8 f), bs => decodeByte f bs
  | some (.imm16 f), bs => decodeWord f bs
  | some (.dir f), bs => decodeByte f bs
  | some (.ext f), bs => decodeWord f bs
  | some (.idx f), bs => decodeIndexed p f bs
  | some (.pair f), bs => decodePairByte f bs

/-- The decoder: the instruction at the head of a list of bytes, with one or two opcode bytes (R160-R162). -/
def decode (p : PcrRegBits) : List Byte → Decoded
  | [] => .more
  | op :: rest =>
    if op = 0x10 then
      match rest with
      | [] => .more
      | op2 :: rest2 => decodeFormat p (word op op2) (page2 op2.toNat) rest2
    else if op = 0x11 then
      match rest with
      | [] => .more
      | op2 :: rest2 => decodeFormat p (word op op2) (page3 op2.toNat) rest2
    else decodeFormat p (word 0 op) (page1 op.toNat) rest

/-- The postbyte with bit 7 set: register bits, indirect flag and the low four bits of the code (R171). -/
def postbyte (rr : BitVec 2) (ind : Bool) (code : BitVec 4) : Byte :=
  ((1#1 ++ rr) ++ BitVec.ofBool ind) ++ code

/-- The bytes of an indexed operand (R171, R210-R225). -/
def encodeIndexed : Indexed → List Byte
  | .off5 r n => [(0#1 ++ r.code) ++ n]
  | .postInc1 r => [postbyte r.code false 0x0]
  | .postInc2 r ind => [postbyte r.code ind 0x1]
  | .preDec1 r => [postbyte r.code false 0x2]
  | .preDec2 r ind => [postbyte r.code ind 0x3]
  | .zero r ind => [postbyte r.code ind 0x4]
  | .accB r ind => [postbyte r.code ind 0x5]
  | .accA r ind => [postbyte r.code ind 0x6]
  | .off8 r n ind => [postbyte r.code ind 0x8, n]
  | .off16 r n ind => [postbyte r.code ind 0x9, hiByte n, loByte n]
  | .accD r ind => [postbyte r.code ind 0xB]
  | .pcr8 n ind => [postbyte 0 ind 0xC, n]
  | .pcr16 n ind => [postbyte 0 ind 0xD, hiByte n, loByte n]
  | .extInd p => [postbyte 0 true 0xF, hiByte p, loByte p]

/-- Opcode and operand bytes of the three memory forms, given their opcodes in the order direct, indexed, extended. -/
def encodeMem (dir idx ext : Byte) : MemOperand → List Byte
  | .dir d => [dir, d]
  | .idx ix => idx :: encodeIndexed ix
  | .ext a => [ext, hiByte a, loByte a]

/-- Opcode and operand bytes of an 8-bit operand, given the opcodes immediate, direct, indexed, extended. -/
def encode8 (imm dir idx ext : Byte) : Operand8 → List Byte
  | .imm v => [imm, v]
  | .mem m => encodeMem dir idx ext m

/-- Opcode and operand bytes of a 16-bit operand, given the opcodes immediate, direct, indexed, extended. -/
def encode16 (imm dir idx ext : Byte) : Operand16 → List Byte
  | .imm v => [imm, hiByte v, loByte v]
  | .mem m => encodeMem dir idx ext m

/-- The encoder: the bytes of a well-formed instruction (R163, R175). -/
def encode : Instr → List Byte
  | .lda o => encode8 0x86 0x96 0xA6 0xB6 o
  | .ldb o => encode8 0xC6 0xD6 0xE6 0xF6 o
  | .ldd o => encode16 0xCC 0xDC 0xEC 0xFC o
  | .ldx o => encode16 0x8E 0x9E 0xAE 0xBE o
  | .ldy o => 0x10 :: encode16 0x8E 0x9E 0xAE 0xBE o
  | .ldu o => encode16 0xCE 0xDE 0xEE 0xFE o
  | .lds o => 0x10 :: encode16 0xCE 0xDE 0xEE 0xFE o
  | .sta m => encodeMem 0x97 0xA7 0xB7 m
  | .stb m => encodeMem 0xD7 0xE7 0xF7 m
  | .std m => encodeMem 0xDD 0xED 0xFD m
  | .stx m => encodeMem 0x9F 0xAF 0xBF m
  | .sty m => 0x10 :: encodeMem 0x9F 0xAF 0xBF m
  | .stu m => encodeMem 0xDF 0xEF 0xFF m
  | .sts m => 0x10 :: encodeMem 0xDF 0xEF 0xFF m
  | .leax ix => 0x30 :: encodeIndexed ix
  | .leay ix => 0x31 :: encodeIndexed ix
  | .leau ix => 0x33 :: encodeIndexed ix
  | .leas ix => 0x32 :: encodeIndexed ix
  | .adda o => encode8 0x8B 0x9B 0xAB 0xBB o
  | .addb o => encode8 0xCB 0xDB 0xEB 0xFB o
  | .adca o => encode8 0x89 0x99 0xA9 0xB9 o
  | .adcb o => encode8 0xC9 0xD9 0xE9 0xF9 o
  | .suba o => encode8 0x80 0x90 0xA0 0xB0 o
  | .subb o => encode8 0xC0 0xD0 0xE0 0xF0 o
  | .sbca o => encode8 0x82 0x92 0xA2 0xB2 o
  | .sbcb o => encode8 0xC2 0xD2 0xE2 0xF2 o
  | .cmpa o => encode8 0x81 0x91 0xA1 0xB1 o
  | .cmpb o => encode8 0xC1 0xD1 0xE1 0xF1 o
  | .anda o => encode8 0x84 0x94 0xA4 0xB4 o
  | .andb o => encode8 0xC4 0xD4 0xE4 0xF4 o
  | .ora o => encode8 0x8A 0x9A 0xAA 0xBA o
  | .orb o => encode8 0xCA 0xDA 0xEA 0xFA o
  | .eora o => encode8 0x88 0x98 0xA8 0xB8 o
  | .eorb o => encode8 0xC8 0xD8 0xE8 0xF8 o
  | .bita o => encode8 0x85 0x95 0xA5 0xB5 o
  | .bitb o => encode8 0xC5 0xD5 0xE5 0xF5 o
  | .andcc v => [0x1C, v]
  | .orcc v => [0x1A, v]
  | .daa => [0x19]
  | .mul => [0x3D]
  | .sex => [0x1D]
  | .abx => [0x3A]
  | .nega => [0x40]
  | .negb => [0x50]
  | .neg m => encodeMem 0x00 0x60 0x70 m
  | .coma => [0x43]
  | .comb => [0x53]
  | .com m => encodeMem 0x03 0x63 0x73 m
  | .lsra => [0x44]
  | .lsrb => [0x54]
  | .lsr m => encodeMem 0x04 0x64 0x74 m
  | .rora => [0x46]
  | .rorb => [0x56]
  | .ror m => encodeMem 0x06 0x66 0x76 m
  | .asra => [0x47]
  | .asrb => [0x57]
  | .asr m => encodeMem 0x07 0x67 0x77 m
  | .asla => [0x48]
  | .aslb => [0x58]
  | .asl m => encodeMem 0x08 0x68 0x78 m
  | .rola => [0x49]
  | .rolb => [0x59]
  | .rol m => encodeMem 0x09 0x69 0x79 m
  | .deca => [0x4A]
  | .decb => [0x5A]
  | .dec m => encodeMem 0x0A 0x6A 0x7A m
  | .inca => [0x4C]
  | .incb => [0x5C]
  | .inc m => encodeMem 0x0C 0x6C 0x7C m
  | .tsta => [0x4D]
  | .tstb => [0x5D]
  | .tst m => encodeMem 0x0D 0x6D 0x7D m
  | .clra => [0x4F]
  | .clrb => [0x5F]
  | .clr m => encodeMem 0x0F 0x6F 0x7F m
  | .addd o => encode16 0xC3 0xD3 0xE3 0xF3 o
  | .subd o => encode16 0x83 0x93 0xA3 0xB3 o
  | .cmpd o => 0x10 :: encode16 0x83 0x93 0xA3 0xB3 o
  | .cmpx o => encode16 0x8C 0x9C 0xAC 0xBC o
  | .cmpy o => 0x10 :: encode16 0x8C 0x9C 0xAC 0xBC o
  | .cmpu o => 0x11 :: encode16 0x83 0x93 0xA3 0xB3 o
  | .cmps o => 0x11 :: encode16 0x8C 0x9C 0xAC 0xBC o
  | .bra o => [0x20, o]
  | .brn o => [0x21, o]
  | .bhi o => [0x22, o]
  | .bls o => [0x23, o]
  | .bhs o => [0x24, o]
  | .blo o => [0x25, o]
  | .bne o => [0x26, o]
  | .beq o => [0x27, o]
  | .bvc o => [0x28, o]
  | .bvs o => [0x29, o]
  | .bpl o => [0x2A, o]
  | .bmi o => [0x2B, o]
  | .bge o => [0x2C, o]
  | .blt o => [0x2D, o]
  | .bgt o => [0x2E, o]
  | .ble o => [0x2F, o]
  | .lbra o => [0x16, hiByte o, loByte o]
  | .lbrn o => [0x10, 0x21, hiByte o, loByte o]
  | .lbhi o => [0x10, 0x22, hiByte o, loByte o]
  | .lbls o => [0x10, 0x23, hiByte o, loByte o]
  | .lbhs o => [0x10, 0x24, hiByte o, loByte o]
  | .lblo o => [0x10, 0x25, hiByte o, loByte o]
  | .lbne o => [0x10, 0x26, hiByte o, loByte o]
  | .lbeq o => [0x10, 0x27, hiByte o, loByte o]
  | .lbvc o => [0x10, 0x28, hiByte o, loByte o]
  | .lbvs o => [0x10, 0x29, hiByte o, loByte o]
  | .lbpl o => [0x10, 0x2A, hiByte o, loByte o]
  | .lbmi o => [0x10, 0x2B, hiByte o, loByte o]
  | .lbge o => [0x10, 0x2C, hiByte o, loByte o]
  | .lblt o => [0x10, 0x2D, hiByte o, loByte o]
  | .lbgt o => [0x10, 0x2E, hiByte o, loByte o]
  | .lble o => [0x10, 0x2F, hiByte o, loByte o]
  | .bsr o => [0x8D, o]
  | .lbsr o => [0x17, hiByte o, loByte o]
  | .jmp m => encodeMem 0x0E 0x6E 0x7E m
  | .jsr m => encodeMem 0x9D 0xAD 0xBD m
  | .rts => [0x39]
  | .pshs m => [0x34, m]
  | .puls m => [0x35, m]
  | .pshu m => [0x36, m]
  | .pulu m => [0x37, m]
  | .tfr r1 r2 => [0x1F, pairByte r1 r2]
  | .exg r1 r2 => [0x1E, pairByte r1 r2]
  | .nop => [0x12]
  | .swi => [0x3F]
  | .swi2 => [0x10, 0x3F]
  | .swi3 => [0x11, 0x3F]
  | .rti => [0x3B]
  | .cwai v => [0x3C, v]
  | .sync => [0x13]

/-- How the opcode table numbers a row's bits: a one-byte row's opcode is bits 7..0, the first byte of the
instruction; the match of a prefixed row is the number `first * 256 + second` (R161), so its FIRST byte is bits
15..8. The bytes of a table word, first byte first, as many as the longest instruction has (log entry 19). -/
def tableBytes (nbits w : Nat) : List Byte :=
  let v := w % 2 ^ nbits
  let b (k : Nat) : Byte := BitVec.ofNat 8 (v / 2 ^ (8 * k))
  if 8 < nbits ∧ (b 1 = 0x10 ∨ b 1 = 0x11) then [b 1, b 0, b 2, b 3, b 4] else [b 0, b 1, b 2, b 3, b 4]

/-- The instruction the decoder reads from a row's word of spec/opcode_table.json (`PCR_REG_BITS` at its default);
bits the table gives no value are 0. -/
def decodeTableWord (nbits w : Nat) : Option Instr :=
  match decode Config.default.pcrRegBits (tableBytes nbits w) with
  | .instr i _ => some i
  | _ => none

end Sys2Proof
end

