-- ==== Sys2Proof/Machine/State.lean ====
section
/-! DEFINITION. The state of the machine as plain data (spec/10_state.md rules R50-R85), what can stop a step,
and the state after reset. -/

namespace Sys2Proof.Machine

/-- The condition codes: the eight named flags of CC, bits 7..0 in this order (R60); no bit is reserved, so the
eight flags are the whole register (log entry 14). -/
structure CC where
  e : Bool
  f : Bool
  h : Bool
  i : Bool
  n : Bool
  z : Bool
  v : Bool
  c : Bool
deriving DecidableEq, Repr

/-- One set of eight page-address registers, one cell a virtual page (R73, R74). -/
structure ParSet where
  p0 : Byte
  p1 : Byte
  p2 : Byte
  p3 : Byte
  p4 : Byte
  p5 : Byte
  p6 : Byte
  p7 : Byte
deriving DecidableEq, Repr

/-- An array of bytes: (address, byte) pairs, addresses strictly rising, no entry equal to what an unlisted
address reads as. -/
abbrev Memory := List Host.Cell

/-- What an unlisted byte of RAM or of a ROM image reads as. DESIGN CHOICE, unsafe (log entries 3, 4): the spec
leaves the initial contents open (R78, R85). -/
def Memory.unlisted : Byte := 0

/-- The canonical form: addresses rising strictly from `lo`, below `hi`, and no byte equal to the unlisted one. -/
def Memory.wf (lo hi : Nat) : Memory → Bool
  | [] => true
  | (a, v) :: rest => decide (lo ≤ a) && decide (a < hi) && decide (v ≠ Memory.unlisted) && Memory.wf (a + 1) hi rest

/-- A device's answer to one access in the I/O window: the byte it returns for a read, and the interrupt latches
it sets in response (R113, R615; log entry 6). -/
structure DeviceAnswer where
  value : Byte
  irq   : Bool
  firq  : Bool
  nmi   : Bool
deriving DecidableEq, Repr

/-- A recorded access to a device (R113). -/
inductive Event where
  | read (va : Word)
  | write (va : Word) (v : Byte)
deriving DecidableEq, Repr

/-- The state of the machine. -/
structure State where
  /-- accumulator A (R51) -/
  a : Byte
  /-- accumulator B (R52) -/
  b : Byte
  /-- index register X (R54) -/
  x : Word
  /-- index register Y (R55) -/
  y : Word
  /-- user stack pointer U (R56) -/
  u : Word
  /-- hardware stack pointer S (R58) -/
  sp : Word
  /-- program counter (R57) -/
  pc : Word
  /-- direct-page register (R59) -/
  dp : Byte
  /-- condition codes (R60-R68) -/
  cc : CC
  /-- MMU enable (R71) -/
  mmuEnabled : Bool
  /-- bank select: true selects the executive set (R72) -/
  executiveEnabled : Bool
  /-- all-RAM mode: the ROM overlay is off (R76) -/
  allRAM : Bool
  /-- ROM mode (R77) -/
  romMode : BitVec 2
  /-- executive PAR set (R73) -/
  parExec : ParSet
  /-- task PAR set (R74) -/
  parTask : ParSet
  /-- physical RAM, 512 KiB (R78) -/
  ram : Memory
  /-- system ROM image, 32 KiB (R78); a model argument that no step changes (log entry 4) -/
  sysRom : Memory
  /-- cartridge ROM image (R78); a model argument that no step changes (log entry 4) -/
  cartRom : Memory
  /-- size of the cartridge image in bytes, 0 where there is none (R6, R125) -/
  cartSize : Nat
  /-- IRQ latch (R79) -/
  irqLatch : Bool
  /-- FIRQ latch (R79) -/
  firqLatch : Bool
  /-- NMI latch (R79) -/
  nmiLatch : Bool
  /-- waiting after CWAI (R80) -/
  cwaiWait : Bool
  /-- waiting after SYNC (R81) -/
  syncWait : Bool
  /-- the OPEN parameters of R6 (log entry 5) -/
  cfg : Config
  /-- sum of the tick counts the steps returned (R670, R672; log entry 12) -/
  ticks : Nat
  /-- the MODEL's own: how many free values were drawn (log entry 8) -/
  draws : Nat
  /-- the MODEL's own: the devices' answers to the accesses to come (log entries 6, 7) -/
  deviceAnswers : List DeviceAnswer
  /-- the MODEL's own: the device accesses recorded so far, oldest first (R113, R141; log entry 6) -/
  events : List Event
deriving DecidableEq, Repr

/-- What ends a step with an error (R602, R608: there is no other). Each carries `after`, the state of R604 or
R606 that a host which calls `step` again continues from (R607; log entry 11). -/
inductive Fault where
  /-- raised by the fetch: the opcode value has no descriptor (R603, R604); safe, the spec's own outcome -/
  | decodeError (op : Word) (after : State)
  /-- raised by the fetch, and by EXG and TFR of an ill-formed pair: a postbyte that encodes an undefined
  combination (R605, R606); safe, the spec's own outcome -/
  | malformedOperand (pb : Byte) (after : State)
deriving DecidableEq, Repr

/-- Why an instruction has no meaning. -/
inductive Refusal where
  /-- raised by an arm of exec whose instruction is not modelled yet; safe -/
  | notModelled (mnemonic : String)
  /-- raised by the fetch where five bytes are no complete instruction, which no bytes are (R160; log entry 20); safe -/
  | instructionTooLong
deriving DecidableEq, Repr

/-- A PAR set of zeros: DESIGN CHOICE, unsafe (log entry 2). -/
def ParSet.zero : ParSet :=
  { p0 := 0, p1 := 0, p2 := 0, p3 := 0, p4 := 0, p5 := 0, p6 := 0, p7 := 0 }

/-- The machine right after reset (R85, R650). A, B, X, Y, U, S and the PARs, which the spec leaves unspecified,
are zero (DESIGN CHOICE, unsafe, log entries 1, 2); the ROM images list nothing (log entry 4), so that the reset
vector `SYS_ROM[0x7FFE]:SYS_ROM[0x7FFF]` is 0x0000. -/
def State.reset : State where
  a := 0
  b := 0
  x := 0
  y := 0
  u := 0
  sp := 0
  pc := 0
  dp := 0
  cc := { e := false, f := true, h := false, i := true, n := false, z := false, v := false, c := false }
  mmuEnabled := false
  executiveEnabled := true
  allRAM := false
  romMode := Config.default.resetRomMode
  parExec := ParSet.zero
  parTask := ParSet.zero
  ram := []
  sysRom := []
  cartRom := []
  cartSize := 0
  irqLatch := false
  firqLatch := false
  nmiLatch := false
  cwaiWait := false
  syncWait := false
  cfg := Config.default
  ticks := 0
  draws := 0
  deviceAnswers := []
  events := []

end Sys2Proof.Machine
end

