-- ==== Sys2Proof/Machine/Flags.lean ====
section
/-! DEFINITION. The condition-code register and every flag computation of the instruction set: the laws of
spec/42_alu8.md, 43_unary_rmw.md and 44_alu16.md and the predicates of spec/45_control.md rule R450. A law takes
the flags before and gives the result and the flags after; a flag it does not name is unchanged (R12). -/

namespace Sys2Proof.Machine

/-- CC as a byte, E F H I N Z V C in bits 7..0 (R60). -/
def CC.toByte (cc : CC) : Byte :=
  BitVec.ofBool cc.e ++ BitVec.ofBool cc.f ++ BitVec.ofBool cc.h ++ BitVec.ofBool cc.i ++
    BitVec.ofBool cc.n ++ BitVec.ofBool cc.z ++ BitVec.ofBool cc.v ++ BitVec.ofBool cc.c

/-- A byte as CC (R60). -/
def CC.ofByte (v : Byte) : CC :=
  { e := v.getLsbD 7, f := v.getLsbD 6, h := v.getLsbD 5, i := v.getLsbD 4,
    n := v.getLsbD 3, z := v.getLsbD 2, v := v.getLsbD 1, c := v.getLsbD 0 }

/-- `CC & m`, flag by flag (R321). -/
def CC.andByte (cc : CC) (m : Byte) : CC :=
  { e := cc.e && m.getLsbD 7, f := cc.f && m.getLsbD 6, h := cc.h && m.getLsbD 5, i := cc.i && m.getLsbD 4,
    n := cc.n && m.getLsbD 3, z := cc.z && m.getLsbD 2, v := cc.v && m.getLsbD 1, c := cc.c && m.getLsbD 0 }

/-- `CC | m`, flag by flag (R322). -/
def CC.orByte (cc : CC) (m : Byte) : CC :=
  { e := cc.e || m.getLsbD 7, f := cc.f || m.getLsbD 6, h := cc.h || m.getLsbD 5, i := cc.i || m.getLsbD 4,
    n := cc.n || m.getLsbD 3, z := cc.z || m.getLsbD 2, v := cc.v || m.getLsbD 1, c := cc.c || m.getLsbD 0 }

namespace Flags

/-- `NZ8(r)` (R12). -/
def nz8 (r : Byte) (cc : CC) : CC := { cc with n := r.msb, z := r == 0 }

/-- `NZ16(r)` (R12). -/
def nz16 (r : Word) (cc : CC) : CC := { cc with n := r.msb, z := r == 0 }

/-- `NZ8(r); V <- 0`: loads, stores, the logical operations, BIT and TST (R250, R302, R387). -/
def move8 (r : Byte) (cc : CC) : CC := { nz8 r cc with v := false }

/-- `NZ16(r); V <- 0`: 16-bit loads and stores (R250). -/
def move16 (r : Word) (cc : CC) : CC := { nz16 r cc with v := false }

/-- `Add8(a, b, cin)` (R300). -/
def add8 (a b : Byte) (cin : Bool) (cc : CC) : Byte × CC :=
  let t := a.toNat + b.toNat + cin.toNat
  let r := BitVec.ofNat 8 t
  (r, { nz8 r cc with
        h := decide (15 < a.toNat % 16 + b.toNat % 16 + cin.toNat)
        v := (~~~(a ^^^ b) &&& (a ^^^ r)).msb
        c := decide (255 < t) })

/-- `Sub8(a, b, cin)` (R301) but for H, which the caller draws (`drawH`). -/
def sub8 (a b : Byte) (cin : Bool) (cc : CC) : Byte × CC :=
  let t : Int := a.toNat - b.toNat - cin.toNat
  let r := BitVec.ofInt 8 t
  (r, { nz8 r cc with
        v := ((a ^^^ b) &&& (a ^^^ r)).msb
        c := decide (t < 0) })

/-- `Add16(a, b)` (R400). -/
def add16 (a b : Word) (cc : CC) : Word × CC :=
  let t := a.toNat + b.toNat
  let r := BitVec.ofNat 16 t
  (r, { nz16 r cc with
        v := (~~~(a ^^^ b) &&& (a ^^^ r)).msb
        c := decide (65535 < t) })

/-- `Sub16(a, b)` (R401). -/
def sub16 (a b : Word) (cc : CC) : Word × CC :=
  let t : Int := a.toNat - b.toNat
  let r := BitVec.ofInt 16 t
  (r, { nz16 r cc with
        v := ((a ^^^ b) &&& (a ^^^ r)).msb
        c := decide (t < 0) })

/-- `Op_NEG(a)` (R351) but for H, which the caller draws. -/
def neg (a : Byte) (cc : CC) : Byte × CC :=
  let r := BitVec.ofInt 8 (0 - (a.toNat : Int))
  (r, { nz8 r cc with v := a == 0x80, c := a != 0 })

/-- `Op_COM(a)` (R355). -/
def com (a : Byte) (cc : CC) : Byte × CC :=
  let r := ~~~a
  (r, { nz8 r cc with v := false, c := true })

/-- `Op_LSR(a)` (R359). -/
def lsr (a : Byte) (cc : CC) : Byte × CC :=
  let r := a >>> 1
  (r, { cc with n := false, z := r == 0, c := a.getLsbD 0 })

/-- `Op_ROR(a)` (R363). -/
def ror (a : Byte) (cc : CC) : Byte × CC :=
  let r := BitVec.ofBool cc.c ++ a.extractLsb' 1 7
  (r, { nz8 r cc with c := a.getLsbD 0 })

/-- `Op_ASR(a)` (R367) but for H, which the caller draws. -/
def asr (a : Byte) (cc : CC) : Byte × CC :=
  let r := (a &&& 0x80) ||| (a >>> 1)
  (r, { nz8 r cc with c := a.getLsbD 0 })

/-- `Op_ASL(a)` (R371) but for H, which the caller draws. -/
def asl (a : Byte) (cc : CC) : Byte × CC :=
  let r := a <<< 1
  (r, { nz8 r cc with v := a.getLsbD 7 ^^ a.getLsbD 6, c := a.getLsbD 7 })

/-- `Op_ROL(a)` (R375). -/
def rol (a : Byte) (cc : CC) : Byte × CC :=
  let r := a.extractLsb' 0 7 ++ BitVec.ofBool cc.c
  (r, { nz8 r cc with v := a.getLsbD 7 ^^ a.getLsbD 6, c := a.getLsbD 7 })

/-- `Op_DEC(a)` (R379). -/
def dec (a : Byte) (cc : CC) : Byte × CC :=
  let r := a - 1
  (r, { nz8 r cc with v := a == 0x80 })

/-- `Op_INC(a)` (R383). -/
def inc (a : Byte) (cc : CC) : Byte × CC :=
  let r := a + 1
  (r, { nz8 r cc with v := a == 0x7F })

/-- `Op_TST(a)` (R387): flags only. -/
def tst (a : Byte) (cc : CC) : CC := move8 a cc

/-- `Op_CLR()` (R391): the flags of the result 0x00. -/
def clr (cc : CC) : CC := { cc with n := false, z := true, v := false, c := false }

/-- The correction DAA adds (R323): low part 0x06, high part 0x60. -/
def daaCorrection (a : Byte) (cc : CC) : Byte :=
  let lsn := a.extractLsb' 0 4
  let msn := a.extractLsb' 4 4
  let lo : Byte := if cc.h = true ∨ 9 < lsn then 0x06 else 0x00
  let hi : Byte := if cc.c = true ∨ 9 < msn ∨ (8 < msn ∧ 9 < lsn) then 0x60 else 0x00
  lo ||| hi

/-- DAA (R323) but for V, which the caller draws. -/
def daa (a : Byte) (cc : CC) : Byte × CC :=
  let cf := daaCorrection a cc
  let r := a + cf
  (r, { nz8 r cc with c := cc.c || cf.extractLsb' 4 3 != 0 })

/-- MUL (R324): the unsigned product; Z from it and C its bit 7. -/
def mul (a b : Byte) (cc : CC) : Word × CC :=
  let r := BitVec.ofNat 16 (a.toNat * b.toNat)
  (r, { cc with z := r == 0, c := r.getLsbD 7 })

/-- The branch predicates of R450, in the order of the opcode's low nibble from 0x2 to 0xF. -/
def hi (cc : CC) : Bool := !(cc.c || cc.z)
/-- lower or same (R450) -/
def ls (cc : CC) : Bool := cc.c || cc.z
/-- higher or same, carry clear (R450) -/
def hs (cc : CC) : Bool := !cc.c
/-- lower, carry set (R450) -/
def lo (cc : CC) : Bool := cc.c
/-- not equal (R450) -/
def ne (cc : CC) : Bool := !cc.z
/-- equal (R450) -/
def eq (cc : CC) : Bool := cc.z
/-- overflow clear (R450) -/
def vc (cc : CC) : Bool := !cc.v
/-- overflow set (R450) -/
def vs (cc : CC) : Bool := cc.v
/-- plus (R450) -/
def pl (cc : CC) : Bool := !cc.n
/-- minus (R450) -/
def mi (cc : CC) : Bool := cc.n
/-- signed greater or equal (R450) -/
def ge (cc : CC) : Bool := !(cc.n ^^ cc.v)
/-- signed less (R450) -/
def lt (cc : CC) : Bool := cc.n ^^ cc.v
/-- signed greater (R450) -/
def gt (cc : CC) : Bool := !(cc.z || (cc.n ^^ cc.v))
/-- signed less or equal (R450) -/
def le (cc : CC) : Bool := cc.z || (cc.n ^^ cc.v)

end Flags

end Sys2Proof.Machine
end

