-- ==== Sys2Proof/Machine/Ops.lean ====
section
/-! DEFINITION. The named operations: registers, free values, physical memory, translation and dispatch of a byte
access (spec/20_memory.md), the stacks (spec/46_stack_transfer.md), taking an exception and returning from one
(spec/47_system.md, 60_exceptions.md). -/

namespace Sys2Proof.Machine

/-- What a meaning answers. -/
abbrev Result := Host.Outcome State Fault Refusal

/-! ### Registers (spec/10_state.md) -/

def State.setA (s : State) (v : Byte) : State := { s with a := v }
def State.setB (s : State) (v : Byte) : State := { s with b := v }
def State.setX (s : State) (v : Word) : State := { s with x := v }
def State.setY (s : State) (v : Word) : State := { s with y := v }
def State.setU (s : State) (v : Word) : State := { s with u := v }
def State.setSp (s : State) (v : Word) : State := { s with sp := v }
def State.setPc (s : State) (v : Word) : State := { s with pc := v }
def State.setDp (s : State) (v : Byte) : State := { s with dp := v }
def State.setCC (s : State) (v : CC) : State := { s with cc := v }

/-- D read as the view A:B (R53). -/
def State.d (s : State) : Word := word s.a s.b

/-- D written: A from the high byte, B from the low byte, as one write (R53). -/
def State.setD (s : State) (v : Word) : State := { s with a := hiByte v, b := loByte v }

/-- The tick count of an instruction, added to the sum (R670). -/
def State.tick (s : State) (n : Nat) : State := { s with ticks := s.ticks + n }

/-- The index register a postbyte selects (R211). -/
def State.index (s : State) : IndexReg → Word
  | .x => s.x
  | .y => s.y
  | .u => s.u
  | .s => s.sp

/-- A write of the selected index register (R213-R216). -/
def State.setIndex (s : State) (r : IndexReg) (v : Word) : State :=
  match r with
  | .x => s.setX v
  | .y => s.setY v
  | .u => s.setU v
  | .s => s.setSp v

/-- A register of EXG/TFR read (R508); an 8-bit register stands in the low byte. -/
def State.reg (s : State) : Reg → Word
  | .d => s.d
  | .x => s.x
  | .y => s.y
  | .u => s.u
  | .s => s.sp
  | .pc => s.pc
  | .a => zext8 s.a
  | .b => zext8 s.b
  | .cc => zext8 s.cc.toByte
  | .dp => zext8 s.dp

/-- A register of EXG/TFR written (R508, R510, R511); an 8-bit register takes the low byte. -/
def State.setReg (s : State) (r : Reg) (v : Word) : State :=
  match r with
  | .d => s.setD v
  | .x => s.setX v
  | .y => s.setY v
  | .u => s.setU v
  | .s => s.setSp v
  | .pc => s.setPc v
  | .a => s.setA (loByte v)
  | .b => s.setB (loByte v)
  | .cc => s.setCC (CC.ofByte (loByte v))
  | .dp => s.setDp (loByte v)

/-! ### Free values (spec/92_eei_decisions.md) -/

/-- A drawn byte: unconstrained, and a fresh one each time (log entry 8). -/
def drawByte (s : State) : Byte × State := (Config.freeByte s.draws, { s with draws := s.draws + 1 })

/-- The value of a flag the MC6809 leaves undefined, per `UNDEF_FLAGS` (R12, D4; log entry 9). -/
def drawFlag (old : Bool) (s : State) : Bool × State :=
  match s.cfg.undefFlags with
  | .draw => (Config.freeBit s.draws, { s with draws := s.draws + 1 })
  | .unchanged => (old, s)

/-- `H <- per UNDEF_FLAGS` (R301, R351, R367, R371). -/
def drawH (s : State) : State :=
  let (h, s1) := drawFlag s.cc.h s
  s1.setCC { s1.cc with h := h }

/-- `V <- per UNDEF_FLAGS` (R323). -/
def drawV (s : State) : State :=
  let (v, s1) := drawFlag s.cc.v s
  s1.setCC { s1.cc with v := v }

/-! ### Physical memory (R78, R108) -/

/-- The byte at an address of an array. -/
def Memory.read (m : Memory) (a : Nat) : Byte :=
  match m with
  | [] => Memory.unlisted
  | (k, v) :: rest => if k = a then v else Memory.read rest a

/-- Listing a byte in its place. -/
def Memory.insert (a : Nat) (v : Byte) : Memory → Memory
  | [] => [(a, v)]
  | (k, w) :: rest =>
    if k < a then (k, w) :: Memory.insert a v rest
    else if k = a then (a, v) :: rest
    else (a, v) :: (k, w) :: rest

/-- A byte written to an array, in canonical form: writing what an unlisted address reads as removes the entry. -/
def Memory.write (m : Memory) (a : Nat) (v : Byte) : Memory :=
  if v = Memory.unlisted then m.filter (fun c => c.1 != a) else Memory.insert a v m

/-! ### Translation (R120-R124) -/

/-- The cell of a PAR set for a virtual page. -/
def ParSet.get (p : ParSet) (i : BitVec 3) : Byte :=
  match i.toNat with
  | 0 => p.p0
  | 1 => p.p1
  | 2 => p.p2
  | 3 => p.p3
  | 4 => p.p4
  | 5 => p.p5
  | 6 => p.p6
  | _ => p.p7

/-- A PAR cell written, the whole byte stored (R124, R132). -/
def ParSet.set (p : ParSet) (i : BitVec 3) (v : Byte) : ParSet :=
  match i.toNat with
  | 0 => { p with p0 := v }
  | 1 => { p with p1 := v }
  | 2 => { p with p2 := v }
  | 3 => { p with p3 := v }
  | 4 => { p with p4 := v }
  | 5 => { p with p5 := v }
  | 6 => { p with p6 := v }
  | _ => { p with p7 := v }

/-- `DEFAULT_PAR[i] = 0x38 + i` (R75). -/
def defaultPar (i : BitVec 3) : Byte := 0x38 + i.setWidth 8

/-- The virtual page of an address, its top three bits (R120). -/
def virtualPage (va : Word) : BitVec 3 := va.extractLsb' 13 3

/-- The PAR cell in force for a virtual page (R121). -/
def State.activePar (s : State) (page : BitVec 3) : Byte :=
  if s.mmuEnabled = false then defaultPar page
  else if s.executiveEnabled then s.parExec.get page
  else s.parTask.get page

/-- The physical page of a virtual address: the active PAR masked to 6 bits (R122, R124). -/
def State.physPage (s : State) (va : Word) : BitVec 6 := (s.activePar (virtualPage va)).extractLsb' 0 6

/-- `Translate(va)`: the 19-bit physical address (R122). -/
def State.translate (s : State) (va : Word) : BitVec 19 := s.physPage va ++ va.extractLsb' 0 13

/-- Whether a virtual address lies in the vector window 0xFFF0-0xFFFF (R112). -/
def inVectors (va : Word) : Bool := decide (Config.vectorBase ≤ va.toNat)

/-- Whether a virtual address lies in the I/O window 0xFF00-0xFFEF (R113). -/
def inIo (va : Word) : Bool := decide (Config.ioBase ≤ va.toNat) && !inVectors va

/-- Whether a PAR register stands at an address: 0xFFA0-0xFFAF (R110, R132). -/
def isPar (va : Word) : Bool := decide (0xFFA0 ≤ va.toNat) && decide (va.toNat ≤ 0xFFAF)

/-- Whether the ROM overlay covers a translated address: allRAM = 0 and physical page 0x3C..0x3F (R125, R126). -/
def State.overlaid (s : State) (va : Word) : Bool := !s.allRAM && decide (0x3C ≤ (s.physPage va).toNat)

/-- The physical RAM byte a virtual address reaches, where it reaches one (R110, R111, R127). -/
def State.ramAt (s : State) (va : Word) : Option Nat :=
  if Config.ioBase ≤ va.toNat then none
  else if s.overlaid va then none
  else some (s.translate va).toNat

/-! ### Devices and the MMU registers (R113, R130-R134) -/

/-- The effect of a device's answer on the interrupt latches (R113, R615). -/
def State.latch (s : State) (d : DeviceAnswer) : State :=
  { s with
    irqLatch := s.irqLatch || d.irq
    firqLatch := s.firqLatch || d.firq
    nmiLatch := s.nmiLatch || d.nmi }

/-- A device access recorded, in the order of the accesses (R113, R141). -/
def State.record (s : State) (e : Event) : State := { s with events := s.events ++ [e] }

/-- `DeviceRead(va)`: the device's answer, where the list of answers holds one, else a free value (R113, D17;
log entries 6, 7). -/
def deviceRead (va : Word) (s : State) : Byte × State :=
  let s1 := s.record (.read va)
  match s1.deviceAnswers with
  | [] => drawByte s1
  | d :: rest => (d.value, { s1 with deviceAnswers := rest }.latch d)

/-- `DeviceWrite(va, v)` (R111, R113). -/
def deviceWrite (va : Word) (v : Byte) (s : State) : State :=
  let s1 := s.record (.write va v)
  match s1.deviceAnswers with
  | [] => s1
  | d :: rest => { s1 with deviceAnswers := rest }.latch d

/-- `MmuControlWrite(va, v)` (R130-R133); no effect at other addresses. -/
def mmuControlWrite (va : Word) (v : Byte) (s : State) : State :=
  if va = 0xFF90 then { s with mmuEnabled := v.getLsbD 6, romMode := v.extractLsb' 0 2 }
  else if va = 0xFF91 then { s with executiveEnabled := !v.getLsbD 0 }
  else if isPar va then
    if va.getLsbD 3 then { s with parTask := s.parTask.set (va.extractLsb' 0 3) v }
    else { s with parExec := s.parExec.set (va.extractLsb' 0 3) v }
  else if va = 0xFFDE then { s with allRAM := false }
  else if va = 0xFFDF then { s with allRAM := true }
  else s

/-- `ParRead(va)`: bits 5..0 of the cell, bits 7..6 a free value; no event (R134, D26; log entry 10). -/
def parRead (va : Word) (s : State) : Byte × State :=
  let cell := if va.getLsbD 3 then s.parTask.get (va.extractLsb' 0 3) else s.parExec.get (va.extractLsb' 0 3)
  let (free, s1) := drawByte s
  (free.extractLsb' 6 2 ++ cell.extractLsb' 0 6, s1)

/-! ### The ROM overlay (R125) -/

/-- `CartRead(o)`: the image's byte, or a free value beyond the image or without one (R125, D20; log entry 10). -/
def cartRead (o : Nat) (s : State) : Byte × State :=
  if o < s.cartSize then (s.cartRom.read o, s) else drawByte s

/-- The offset of an overlaid address in the 32 KiB of the overlay (R125). -/
def State.romOffset (s : State) (va : Word) : Nat :=
  ((s.physPage va).toNat - 0x3C) * 0x2000 + (va.extractLsb' 0 13).toNat

/-- `RomRead(p, va)` (R125). -/
def romRead (va : Word) (s : State) : Byte × State :=
  let off := s.romOffset va
  if s.romMode = 0b11 then cartRead off s
  else if s.romMode = 0b10 ∨ off < 0x4000 then (s.sysRom.read off, s)
  else cartRead (off - 0x4000) s

/-! ### Byte and word access (R104, R110, R111) -/

/-- `readByte(va)` (R110). -/
def readByte (va : Word) (s : State) : Byte × State :=
  if inVectors va then (s.sysRom.read (0x7FF0 + (va.toNat - Config.vectorBase)), s)
  else if inIo va then
    if isPar va then parRead va s else deviceRead va s
  else if s.overlaid va then romRead va s
  else (s.ram.read (s.translate va).toNat, s)

/-- `writeByte(va, v)` (R111). -/
def writeByte (va : Word) (v : Byte) (s : State) : State :=
  if inVectors va then s
  else if inIo va then mmuControlWrite va v (deviceWrite va v s)
  else match s.ramAt va with
    | none => s
    | some pa => { s with ram := s.ram.write pa v }

/-- `MemRead(a, 2)`: high byte first (R104). -/
def readWord (a : Word) (s : State) : Word × State :=
  let (hi, s1) := readByte a s
  let (lo, s2) := readByte (a + 1) s1
  (word hi lo, s2)

/-- `MemWrite(a, 2, v)`: high byte first (R104). -/
def writeWord (a : Word) (v : Word) (s : State) : State :=
  writeByte (a + 1) (loByte v) (writeByte a (hiByte v) s)

/-- `Fetch8()` (R166). -/
def fetch8 (s : State) : Byte × State :=
  let (b, s1) := readByte s.pc s
  (b, s1.setPc (s1.pc + 1))

/-! ### The stacks (R500-R503) -/

/-- The two stack pointers. -/
inductive StackPtr where
  | s | u
deriving DecidableEq, Repr

/-- The complementary stack pointer, bit 6 of a push or pull mask (R503). -/
def StackPtr.other : StackPtr → StackPtr
  | .s => .u
  | .u => .s

/-- A stack pointer read. -/
def State.stack (st : State) : StackPtr → Word
  | .s => st.sp
  | .u => st.u

/-- A stack pointer written. -/
def State.setStack (st : State) (k : StackPtr) (v : Word) : State :=
  match k with
  | .s => st.setSp v
  | .u => st.setU v

/-- `Push8(sp, v)` (R500). -/
def push8 (k : StackPtr) (v : Byte) (s : State) : State :=
  let s1 := s.setStack k (s.stack k - 1)
  writeByte (s1.stack k) v s1

/-- `Push16(sp, v)` (R500). -/
def push16 (k : StackPtr) (v : Word) (s : State) : State :=
  let s1 := s.setStack k (s.stack k - 2)
  writeWord (s1.stack k) v s1

/-- `Pull8(sp)` (R501). -/
def pull8 (k : StackPtr) (s : State) : Byte × State :=
  let (v, s1) := readByte (s.stack k) s
  (v, s1.setStack k (s1.stack k + 1))

/-- `Pull16(sp)` (R501). -/
def pull16 (k : StackPtr) (s : State) : Word × State :=
  let (v, s1) := readWord (s.stack k) s
  (v, s1.setStack k (s1.stack k + 2))

/-- The registers a mask selects pushed, bit 7 down to bit 0 (R503, R504, R506). -/
def pushMask (k : StackPtr) (m : Byte) (s : State) : State :=
  let s := if m.getLsbD 7 then push16 k s.pc s else s
  let s := if m.getLsbD 6 then push16 k (s.stack k.other) s else s
  let s := if m.getLsbD 5 then push16 k s.y s else s
  let s := if m.getLsbD 4 then push16 k s.x s else s
  let s := if m.getLsbD 3 then push8 k s.dp s else s
  let s := if m.getLsbD 2 then push8 k s.b s else s
  let s := if m.getLsbD 1 then push8 k s.a s else s
  if m.getLsbD 0 then push8 k s.cc.toByte s else s

/-- One byte register pulled. -/
def pullInto8 (k : StackPtr) (set : State → Byte → State) (s : State) : State :=
  let (v, s1) := pull8 k s
  set s1 v

/-- One word register pulled. -/
def pullInto16 (k : StackPtr) (set : State → Word → State) (s : State) : State :=
  let (v, s1) := pull16 k s
  set s1 v

/-- CC written with a byte as data (R60). -/
def State.setCCByte (s : State) (v : Byte) : State := s.setCC (CC.ofByte v)

/-- The registers a mask selects pulled, bit 0 up to bit 7 (R503, R505, R507). -/
def pullMask (k : StackPtr) (m : Byte) (s : State) : State :=
  let s := if m.getLsbD 0 then pullInto8 k State.setCCByte s else s
  let s := if m.getLsbD 1 then pullInto8 k State.setA s else s
  let s := if m.getLsbD 2 then pullInto8 k State.setB s else s
  let s := if m.getLsbD 3 then pullInto8 k State.setDp s else s
  let s := if m.getLsbD 4 then pullInto16 k State.setX s else s
  let s := if m.getLsbD 5 then pullInto16 k State.setY s else s
  let s := if m.getLsbD 6 then pullInto16 k (fun t v => t.setStack k.other v) s else s
  if m.getLsbD 7 then pullInto16 k State.setPc s else s

/-- Bytes moved by a push or pull mask (R503). -/
def bytesMoved (m : Byte) : Nat :=
  2 * ((m.getLsbD 7).toNat + (m.getLsbD 6).toNat + (m.getLsbD 5).toNat + (m.getLsbD 4).toNat) +
    ((m.getLsbD 3).toNat + (m.getLsbD 2).toNat + (m.getLsbD 1).toNat + (m.getLsbD 0).toNat)

/-- `PushEntireState()` (R502). -/
def pushEntireState (s : State) : State :=
  let s := push16 .s s.pc s
  let s := push16 .s s.u s
  let s := push16 .s s.y s
  let s := push16 .s s.x s
  let s := push8 .s s.dp s
  let s := push8 .s s.b s
  let s := push8 .s s.a s
  push8 .s s.cc.toByte s

/-! ### Taking an exception and returning from one (R551-R554, R619-R623) -/

/-- Which frame an entry pushes: the entire state with E set, PC and CC with E clear (FIRQ), or none, where CWAI
pushed it already (R551, R620, R622). -/
inductive Frame where
  | entire | reduced | stacked
deriving DecidableEq, Repr

/-- E as the frame records it, and the frame's push (R68, R502, R619-R622). -/
def pushFrame (frame : Frame) (s : State) : State :=
  match frame with
  | .entire => pushEntireState (s.setCC { s.cc with e := true })
  | .reduced =>
    let s := s.setCC { s.cc with e := false }
    let s := push16 .s s.pc s
    push8 .s s.cc.toByte s
  | .stacked => s

/-- Taking an exception: the frame, then the masks set in CC, then PC from the vector (R551-R553, R611, R619-R621). -/
def takeException (frame : Frame) (setI setF : Bool) (vector : Word) (s : State) : State :=
  let s := pushFrame frame s
  let s := s.setCC { s.cc with i := s.cc.i || setI, f := s.cc.f || setF }
  let (target, s) := readWord vector s
  s.setPc target

/-- The rest of an entire frame above its CC, pulled in the order of R554. -/
def pullEntireState (s : State) : State :=
  let s := pullInto8 .s State.setA s
  let s := pullInto8 .s State.setB s
  let s := pullInto8 .s State.setDp s
  let s := pullInto16 .s State.setX s
  let s := pullInto16 .s State.setY s
  pullInto16 .s State.setU s

/-- Returning from an exception: CC, then where the pulled E is 1 the entire state, then PC (R554, R626). -/
def returnFromException (s : State) : State :=
  let s := pullInto8 .s State.setCCByte s
  let s := if s.cc.e then pullEntireState s else s
  pullInto16 .s State.setPc s

/-- The frame an interrupt pushes: none where CWAI pushed the entire state already (R619-R622). -/
def frameFor (s : State) (f : Frame) : Frame := if s.cwaiWait then .stacked else f

/-- `ServiceIRQ()` (R619). -/
def serviceIrq (s : State) : State :=
  { takeException (frameFor s .entire) true false 0xFFF8 s with irqLatch := false, cwaiWait := false }

/-- `ServiceFIRQ()` (R620). -/
def serviceFirq (s : State) : State :=
  { takeException (frameFor s .reduced) true true 0xFFF6 s with firqLatch := false, cwaiWait := false }

/-- `ServiceNMI()` (R621). -/
def serviceNmi (s : State) : State :=
  { takeException (frameFor s .entire) true true 0xFFFC s with nmiLatch := false, cwaiWait := false }

/-- A SYNC wait ends where any latch is set, masked or not (R627). -/
def releaseSync (s : State) : State :=
  if s.syncWait && (s.irqLatch || s.firqLatch || s.nmiLatch) then { s with syncWait := false } else s

/-- `Service()`, the service point: IRQ, then FIRQ, then NMI, each where latched and unmasked (R612-R618). -/
def service (s : State) : State :=
  let s := releaseSync s
  let s := if s.irqLatch && !s.cc.i then serviceIrq s else s
  let s := if s.firqLatch && !s.cc.f then serviceFirq s else s
  if s.nmiLatch then serviceNmi s else s

end Sys2Proof.Machine
end

