-- ==== Sys2Proof/Machine/Operands.lean ====
section
/-! DEFINITION. The addressing-mode resolver (spec/40_addressing.md rules R200-R229). It runs with PC past the
whole instruction: every byte an operand takes was fetched before (log entry 13), which is the PC the PC-relative
forms use (R223, R224). -/

namespace Sys2Proof.Machine

/-- One level of indirection, where the postbyte asks for it (R226). -/
def deref (ind : Bool) (ea : Word) (s : State) : Word × State := if ind then readWord ea s else (ea, s)

/-- `IndexedEA()` (R210, R212-R226): the effective address, and the state with the index register updated. -/
def indexedEA (ix : Indexed) (s : State) : Word × State :=
  match ix with
  | .off5 r n => (s.index r + sext5 n, s)
  | .postInc1 r => (s.index r, s.setIndex r (s.index r + 1))
  | .postInc2 r ind => deref ind (s.index r) (s.setIndex r (s.index r + 2))
  | .preDec1 r => (s.index r - 1, s.setIndex r (s.index r - 1))
  | .preDec2 r ind => deref ind (s.index r - 2) (s.setIndex r (s.index r - 2))
  | .zero r ind => deref ind (s.index r) s
  | .accB r ind => deref ind (s.index r + sext8 s.b) s
  | .accA r ind => deref ind (s.index r + sext8 s.a) s
  | .off8 r n ind => deref ind (s.index r + sext8 n) s
  | .off16 r n ind => deref ind (s.index r + n) s
  | .accD r ind => deref ind (s.index r + s.d) s
  | .pcr8 n ind => deref ind (s.pc + sext8 n) s
  | .pcr16 n ind => deref ind (s.pc + n) s
  | .extInd p => readWord p s

/-- The effective address of a memory operand (R203-R205). -/
def effectiveAddress (m : MemOperand) (s : State) : Word × State :=
  match m with
  | .dir d => (word s.dp d, s)
  | .ext a => (a, s)
  | .idx ix => indexedEA ix s

/-- The operand of an 8-bit operation: the immediate, or one byte read at the effective address (R202, R207). -/
def operand8 (o : Operand8) (s : State) : Byte × State :=
  match o with
  | .imm v => (v, s)
  | .mem m =>
    let (ea, s1) := effectiveAddress m s
    readByte ea s1

/-- The operand of a 16-bit operation: the immediate, or one word read at the effective address (R202, R207). -/
def operand16 (o : Operand16) (s : State) : Word × State :=
  match o with
  | .imm v => (v, s)
  | .mem m =>
    let (ea, s1) := effectiveAddress m s
    readWord ea s1

/-- Bytes the indexed resolver consumes, the postbyte counted (R228). -/
def bytesConsumed : Indexed → Nat
  | .off8 .. | .pcr8 .. => 2
  | .off16 .. | .pcr16 .. | .extInd .. => 3
  | _ => 1

/-- Tick count of a memory form whose direct form has `base` ticks (R175, R670, R671): an extended form has one
more, an indexed form adds the bytes consumed. -/
def memTicks (base : Nat) : MemOperand → Nat
  | .dir _ => base
  | .ext _ => base + 1
  | .idx ix => base + bytesConsumed ix

/-- Tick count of an 8-bit operand form whose immediate form has `base` ticks; the direct form has two more (R175). -/
def ticks8 (base : Nat) : Operand8 → Nat
  | .imm _ => base
  | .mem m => memTicks (base + 2) m

/-- Tick count of a 16-bit operand form whose immediate form has `base` ticks; the direct form has two more (R175). -/
def ticks16 (base : Nat) : Operand16 → Nat
  | .imm _ => base
  | .mem m => memTicks (base + 2) m

end Sys2Proof.Machine
end

