-- ==== Sys2Proof/Machine/Alu16.lean ====
section
/-! DEFINITION. 16-bit arithmetic and compares (spec/44_alu16.md rules R400-R409). H is never written. -/

namespace Sys2Proof.Machine

/-- `D <- law(D, M)` (R400-R404). -/
def arith16 (law : Word → Word → CC → Word × CC) (base : Nat) (o : Operand16) (s : State) : State :=
  let (m, s1) := operand16 o s
  let (r, cc) := law s1.d m s1.cc
  ((s1.setD r).setCC cc).tick (ticks16 base o)

/-- `Sub16(r, M)` with the result discarded; the register is read after the resolver updated it (R229, R401, R405-R409). -/
def compare16 (get : State → Word) (base : Nat) (o : Operand16) (s : State) : State :=
  let (m, s1) := operand16 o s
  (s1.setCC (Flags.sub16 (get s1) m s1.cc).2).tick (ticks16 base o)

/-- ADDD (R403) -/
def execAddd (o : Operand16) (s : State) : Result := .next (arith16 Flags.add16 4 o s)

/-- SUBD (R404) -/
def execSubd (o : Operand16) (s : State) : Result := .next (arith16 Flags.sub16 4 o s)

/-- CMPD (R405) -/
def execCmpd (o : Operand16) (s : State) : Result := .next (compare16 State.d 5 o s)

/-- CMPX (R406) -/
def execCmpx (o : Operand16) (s : State) : Result := .next (compare16 State.x 4 o s)

/-- CMPY (R407) -/
def execCmpy (o : Operand16) (s : State) : Result := .next (compare16 State.y 5 o s)

/-- CMPU (R408) -/
def execCmpu (o : Operand16) (s : State) : Result := .next (compare16 State.u 5 o s)

/-- CMPS (R409) -/
def execCmps (o : Operand16) (s : State) : Result := .next (compare16 State.sp 5 o s)

end Sys2Proof.Machine
end

