-- ==== Sys2Proof/Machine/Alu8.lean ====
section
/-! DEFINITION. 8-bit accumulator arithmetic and logic (spec/42_alu8.md rules R300-R326). -/

namespace Sys2Proof.Machine

/-- `r <- law(r, M)`, flags by the law (R300, R302-R306). -/
def arith8 (get : State → Byte) (set : State → Byte → State) (law : Byte → Byte → CC → Byte × CC)
    (o : Operand8) (s : State) : State :=
  let (m, s1) := operand8 o s
  let (r, cc) := law (get s1) m s1.cc
  (set (s1.setCC cc) r).tick (ticks8 2 o)

/-- `r <- Sub8(r, M, cin)`, with H per `UNDEF_FLAGS` (R301, R307-R310). -/
def subtract8 (get : State → Byte) (set : State → Byte → State) (withBorrow : Bool) (o : Operand8) (s : State) : State :=
  let (m, s1) := operand8 o s
  let s2 := drawH s1
  let (r, cc) := Flags.sub8 (get s2) m (withBorrow && s2.cc.c) s2.cc
  (set (s2.setCC cc) r).tick (ticks8 2 o)

/-- `Sub8(r, M, 0)` with the result discarded (R301, R311, R312). -/
def compare8 (get : State → Byte) (o : Operand8) (s : State) : State :=
  let (m, s1) := operand8 o s
  let s2 := drawH s1
  (s2.setCC (Flags.sub8 (get s2) m false s2.cc).2).tick (ticks8 2 o)

/-- `r <- f(r, M); NZ8(r); V <- 0` (R302, R313-R318). -/
def logic8 (get : State → Byte) (set : State → Byte → State) (f : Byte → Byte → Byte) (o : Operand8) (s : State) : State :=
  let (m, s1) := operand8 o s
  let r := f (get s1) m
  ((set s1 r).setCC (Flags.move8 r s1.cc)).tick (ticks8 2 o)

/-- `NZ8(r & M); V <- 0`, nothing written (R302, R319, R320). -/
def bitTest8 (get : State → Byte) (o : Operand8) (s : State) : State :=
  let (m, s1) := operand8 o s
  (s1.setCC (Flags.move8 (get s1 &&& m) s1.cc)).tick (ticks8 2 o)

/-- The addition law without a carry in (R303, R304). -/
def addLaw (a b : Byte) (cc : CC) : Byte × CC := Flags.add8 a b false cc

/-- The addition law with C as carry in, read before any flag is written (R305, R306). -/
def adcLaw (a b : Byte) (cc : CC) : Byte × CC := Flags.add8 a b cc.c cc

/-- ADDA (R303) -/
def execAdda (o : Operand8) (s : State) : Result := .next (arith8 State.a State.setA addLaw o s)

/-- ADDB (R304) -/
def execAddb (o : Operand8) (s : State) : Result := .next (arith8 State.b State.setB addLaw o s)

/-- ADCA (R305) -/
def execAdca (o : Operand8) (s : State) : Result := .next (arith8 State.a State.setA adcLaw o s)

/-- ADCB (R306) -/
def execAdcb (o : Operand8) (s : State) : Result := .next (arith8 State.b State.setB adcLaw o s)

/-- SUBA (R307) -/
def execSuba (o : Operand8) (s : State) : Result := .next (subtract8 State.a State.setA false o s)

/-- SUBB (R308) -/
def execSubb (o : Operand8) (s : State) : Result := .next (subtract8 State.b State.setB false o s)

/-- SBCA (R309) -/
def execSbca (o : Operand8) (s : State) : Result := .next (subtract8 State.a State.setA true o s)

/-- SBCB (R310) -/
def execSbcb (o : Operand8) (s : State) : Result := .next (subtract8 State.b State.setB true o s)

/-- CMPA (R311) -/
def execCmpa (o : Operand8) (s : State) : Result := .next (compare8 State.a o s)

/-- CMPB (R312) -/
def execCmpb (o : Operand8) (s : State) : Result := .next (compare8 State.b o s)

/-- ANDA (R313) -/
def execAnda (o : Operand8) (s : State) : Result := .next (logic8 State.a State.setA (fun a m => a &&& m) o s)

/-- ANDB (R314) -/
def execAndb (o : Operand8) (s : State) : Result := .next (logic8 State.b State.setB (fun a m => a &&& m) o s)

/-- ORA (R315) -/
def execOra (o : Operand8) (s : State) : Result := .next (logic8 State.a State.setA (fun a m => a ||| m) o s)

/-- ORB (R316) -/
def execOrb (o : Operand8) (s : State) : Result := .next (logic8 State.b State.setB (fun a m => a ||| m) o s)

/-- EORA (R317) -/
def execEora (o : Operand8) (s : State) : Result := .next (logic8 State.a State.setA (fun a m => a ^^^ m) o s)

/-- EORB (R318) -/
def execEorb (o : Operand8) (s : State) : Result := .next (logic8 State.b State.setB (fun a m => a ^^^ m) o s)

/-- BITA (R319) -/
def execBita (o : Operand8) (s : State) : Result := .next (bitTest8 State.a o s)

/-- BITB (R320) -/
def execBitb (o : Operand8) (s : State) : Result := .next (bitTest8 State.b o s)

/-- ANDCC: `CC <- CC & m` (R321) -/
def execAndcc (v : Byte) (s : State) : Result := .next ((s.setCC (s.cc.andByte v)).tick 3)

/-- ORCC: `CC <- CC | m` (R322) -/
def execOrcc (v : Byte) (s : State) : Result := .next ((s.setCC (s.cc.orByte v)).tick 3)

/-- DAA, decimal adjust A; V per `UNDEF_FLAGS` (R323) -/
def execDaa (s : State) : Result :=
  let s1 := drawV s
  let (r, cc) := Flags.daa s1.a s1.cc
  .next (((s1.setA r).setCC cc).tick 2)

/-- MUL: `D <- A * B` (R324) -/
def execMul (s : State) : Result :=
  let (r, cc) := Flags.mul s.a s.b s.cc
  .next (((s.setD r).setCC cc).tick 11)

/-- V after SEX, per `SEX_V` (R325, D6). -/
def sexV (s : State) : Bool :=
  match s.cfg.sexV with
  | .unchanged => s.cc.v
  | .cleared => false

/-- SEX, sign extend B into A (R325) -/
def execSex (s : State) : Result :=
  let s1 := s.setA (if s.b.getLsbD 7 then 0xFF else 0x00)
  .next ((s1.setCC { Flags.nz16 s1.d s1.cc with v := sexV s }).tick 2)

/-- ABX: `X <- X + zext_16(B)`, no flag (R326) -/
def execAbx (s : State) : Result := .next ((s.setX (s.x + zext8 s.b)).tick 3)

end Sys2Proof.Machine
end

