-- ==== Sys2Proof/Machine/Control.lean ====
section
/-! DEFINITION. Branches, jumps and subroutine calls (spec/45_control.md rules R450-R489). No flag is written. -/

namespace Sys2Proof.Machine

/-- The short-branch template: PC is past the branch (R451). -/
def shortBranch (taken : Bool) (o : Byte) (s : State) : State :=
  (if taken then s.setPc (s.pc + sext8 o) else s).tick 3

/-- The long-branch template of page 2; a taken branch costs one tick more (R452). -/
def longBranch (taken : Bool) (o : Word) (s : State) : State :=
  if taken then (s.setPc (s.pc + o)).tick 6 else s.tick 5

/-- The return address pushed on S, then the jump (R485, R486, R488). -/
def call (target : Word) (s : State) : State := (push16 .s s.pc s).setPc target

/-- BRA (R453) -/
def execBra (o : Byte) (s : State) : Result := .next (shortBranch true o s)

/-- BRN (R454) -/
def execBrn (o : Byte) (s : State) : Result := .next (shortBranch false o s)

/-- BHI (R455) -/
def execBhi (o : Byte) (s : State) : Result := .next (shortBranch (Flags.hi s.cc) o s)

/-- BLS (R456) -/
def execBls (o : Byte) (s : State) : Result := .next (shortBranch (Flags.ls s.cc) o s)

/-- BHS (R457) -/
def execBhs (o : Byte) (s : State) : Result := .next (shortBranch (Flags.hs s.cc) o s)

/-- BLO (R458) -/
def execBlo (o : Byte) (s : State) : Result := .next (shortBranch (Flags.lo s.cc) o s)

/-- BNE (R459) -/
def execBne (o : Byte) (s : State) : Result := .next (shortBranch (Flags.ne s.cc) o s)

/-- BEQ (R460) -/
def execBeq (o : Byte) (s : State) : Result := .next (shortBranch (Flags.eq s.cc) o s)

/-- BVC (R461) -/
def execBvc (o : Byte) (s : State) : Result := .next (shortBranch (Flags.vc s.cc) o s)

/-- BVS (R462) -/
def execBvs (o : Byte) (s : State) : Result := .next (shortBranch (Flags.vs s.cc) o s)

/-- BPL (R463) -/
def execBpl (o : Byte) (s : State) : Result := .next (shortBranch (Flags.pl s.cc) o s)

/-- BMI (R464) -/
def execBmi (o : Byte) (s : State) : Result := .next (shortBranch (Flags.mi s.cc) o s)

/-- BGE (R465) -/
def execBge (o : Byte) (s : State) : Result := .next (shortBranch (Flags.ge s.cc) o s)

/-- BLT (R466) -/
def execBlt (o : Byte) (s : State) : Result := .next (shortBranch (Flags.lt s.cc) o s)

/-- BGT (R467) -/
def execBgt (o : Byte) (s : State) : Result := .next (shortBranch (Flags.gt s.cc) o s)

/-- BLE (R468) -/
def execBle (o : Byte) (s : State) : Result := .next (shortBranch (Flags.le s.cc) o s)

/-- LBRA, no taken surcharge (R469) -/
def execLbra (o : Word) (s : State) : Result := .next ((s.setPc (s.pc + o)).tick 5)

/-- LBRN (R470) -/
def execLbrn (o : Word) (s : State) : Result := .next (longBranch false o s)

/-- LBHI (R471) -/
def execLbhi (o : Word) (s : State) : Result := .next (longBranch (Flags.hi s.cc) o s)

/-- LBLS (R472) -/
def execLbls (o : Word) (s : State) : Result := .next (longBranch (Flags.ls s.cc) o s)

/-- LBHS (R473) -/
def execLbhs (o : Word) (s : State) : Result := .next (longBranch (Flags.hs s.cc) o s)

/-- LBLO (R474) -/
def execLblo (o : Word) (s : State) : Result := .next (longBranch (Flags.lo s.cc) o s)

/-- LBNE (R475) -/
def execLbne (o : Word) (s : State) : Result := .next (longBranch (Flags.ne s.cc) o s)

/-- LBEQ (R476) -/
def execLbeq (o : Word) (s : State) : Result := .next (longBranch (Flags.eq s.cc) o s)

/-- LBVC (R477) -/
def execLbvc (o : Word) (s : State) : Result := .next (longBranch (Flags.vc s.cc) o s)

/-- LBVS (R478) -/
def execLbvs (o : Word) (s : State) : Result := .next (longBranch (Flags.vs s.cc) o s)

/-- LBPL (R479) -/
def execLbpl (o : Word) (s : State) : Result := .next (longBranch (Flags.pl s.cc) o s)

/-- LBMI (R480) -/
def execLbmi (o : Word) (s : State) : Result := .next (longBranch (Flags.mi s.cc) o s)

/-- LBGE (R481) -/
def execLbge (o : Word) (s : State) : Result := .next (longBranch (Flags.ge s.cc) o s)

/-- LBLT (R482) -/
def execLblt (o : Word) (s : State) : Result := .next (longBranch (Flags.lt s.cc) o s)

/-- LBGT (R483) -/
def execLbgt (o : Word) (s : State) : Result := .next (longBranch (Flags.gt s.cc) o s)

/-- LBLE (R484) -/
def execLble (o : Word) (s : State) : Result := .next (longBranch (Flags.le s.cc) o s)

/-- BSR (R485) -/
def execBsr (o : Byte) (s : State) : Result := .next ((call (s.pc + sext8 o) s).tick 7)

/-- LBSR (R486) -/
def execLbsr (o : Word) (s : State) : Result := .next ((call (s.pc + o) s).tick 9)

/-- JMP: `PC <- EA`; nothing is read at EA (R487) -/
def execJmp (m : MemOperand) (s : State) : Result :=
  let (ea, s1) := effectiveAddress m s
  .next ((s1.setPc ea).tick (memTicks 3 m))

/-- JSR: EA is complete before the push (R488) -/
def execJsr (m : MemOperand) (s : State) : Result :=
  let (ea, s1) := effectiveAddress m s
  .next ((call ea s1).tick (memTicks 7 m))

/-- RTS: `PC <- Pull16(S)` (R489) -/
def execRts (s : State) : Result := .next ((pullInto16 .s State.setPc s).tick 5)

end Sys2Proof.Machine
end

