-- ==== Sys2Proof/Machine/LoadStore.lean ====
section
/-! DEFINITION. Loads, stores and effective-address loads (spec/41_load_store.md rules R250-R268). -/

namespace Sys2Proof.Machine

/-- `r <- M; NZ8(r); V <- 0` (R250-R252). -/
def load8 (set : State → Byte → State) (base : Nat) (o : Operand8) (s : State) : State :=
  let (v, s1) := operand8 o s
  ((set s1 v).setCC (Flags.move8 v s1.cc)).tick (ticks8 base o)

/-- `r <- M; NZ16(r); V <- 0` (R250, R253-R257). -/
def load16 (set : State → Word → State) (base : Nat) (o : Operand16) (s : State) : State :=
  let (v, s1) := operand16 o s
  ((set s1 v).setCC (Flags.move16 v s1.cc)).tick (ticks16 base o)

/-- `MemWrite(EA, 1, r); NZ8(r); V <- 0`; nothing is read at EA (R207, R258, R259). -/
def store8 (get : State → Byte) (base : Nat) (m : MemOperand) (s : State) : State :=
  let (ea, s1) := effectiveAddress m s
  let s2 := writeByte ea (get s1) s1
  (s2.setCC (Flags.move8 (get s1) s2.cc)).tick (memTicks base m)

/-- `MemWrite(EA, 2, r); NZ16(r); V <- 0`; the register is read after the resolver updated it (R229, R260-R264). -/
def store16 (get : State → Word) (base : Nat) (m : MemOperand) (s : State) : State :=
  let (ea, s1) := effectiveAddress m s
  let s2 := writeWord ea (get s1) s1
  (s2.setCC (Flags.move16 (get s1) s2.cc)).tick (memTicks base m)

/-- `r <- EA`, no flag (R267, R268); after the resolver's own update, so that EA wins (R229). -/
def lea (set : State → Word → State) (ix : Indexed) (s : State) : State :=
  let (ea, s1) := indexedEA ix s
  (set s1 ea).tick (4 + bytesConsumed ix)

/-- `r <- EA; Z <- (r = 0)`, Z alone (R265, R266). -/
def leaZ (set : State → Word → State) (ix : Indexed) (s : State) : State :=
  let (ea, s1) := indexedEA ix s
  ((set s1 ea).setCC { s1.cc with z := ea == 0 }).tick (4 + bytesConsumed ix)

/-- LDA, load (R251) -/
def execLda (o : Operand8) (s : State) : Result := .next (load8 State.setA 2 o s)

/-- LDB, load (R252) -/
def execLdb (o : Operand8) (s : State) : Result := .next (load8 State.setB 2 o s)

/-- LDD, load (R253) -/
def execLdd (o : Operand16) (s : State) : Result := .next (load16 State.setD 3 o s)

/-- LDX, load (R254) -/
def execLdx (o : Operand16) (s : State) : Result := .next (load16 State.setX 3 o s)

/-- LDY, load (R255) -/
def execLdy (o : Operand16) (s : State) : Result := .next (load16 State.setY 4 o s)

/-- LDU, load (R256) -/
def execLdu (o : Operand16) (s : State) : Result := .next (load16 State.setU 3 o s)

/-- LDS, load (R257) -/
def execLds (o : Operand16) (s : State) : Result := .next (load16 State.setSp 4 o s)

/-- STA, store (R258) -/
def execSta (m : MemOperand) (s : State) : Result := .next (store8 State.a 4 m s)

/-- STB, store (R259) -/
def execStb (m : MemOperand) (s : State) : Result := .next (store8 State.b 4 m s)

/-- STD, store (R260) -/
def execStd (m : MemOperand) (s : State) : Result := .next (store16 State.d 5 m s)

/-- STX, store (R261) -/
def execStx (m : MemOperand) (s : State) : Result := .next (store16 State.x 5 m s)

/-- STY, store (R262) -/
def execSty (m : MemOperand) (s : State) : Result := .next (store16 State.y 6 m s)

/-- STU, store (R263) -/
def execStu (m : MemOperand) (s : State) : Result := .next (store16 State.u 5 m s)

/-- STS, store (R264) -/
def execSts (m : MemOperand) (s : State) : Result := .next (store16 State.sp 6 m s)

/-- LEAX, load effective address (R265) -/
def execLeax (ix : Indexed) (s : State) : Result := .next (leaZ State.setX ix s)

/-- LEAY, load effective address (R266) -/
def execLeay (ix : Indexed) (s : State) : Result := .next (leaZ State.setY ix s)

/-- LEAU, load effective address (R267) -/
def execLeau (ix : Indexed) (s : State) : Result := .next (lea State.setU ix s)

/-- LEAS, load effective address (R268) -/
def execLeas (ix : Indexed) (s : State) : Result := .next (lea State.setSp ix s)

end Sys2Proof.Machine
end

