-- ==== Sys2Proof/Machine/Stack.lean ====
section
/-! DEFINITION. Push, pull and register transfer (spec/46_stack_transfer.md rules R500-R511). -/

namespace Sys2Proof.Machine

/-- PSHS (R504) -/
def execPshs (m : Byte) (s : State) : Result := .next ((pushMask .s m s).tick (5 + bytesMoved m))

/-- PULS (R505) -/
def execPuls (m : Byte) (s : State) : Result := .next ((pullMask .s m s).tick (5 + bytesMoved m))

/-- PSHU (R506) -/
def execPshu (m : Byte) (s : State) : Result := .next ((pushMask .u m s).tick (5 + bytesMoved m))

/-- PULU (R507) -/
def execPulu (m : Byte) (s : State) : Result := .next ((pullMask .u m s).tick (5 + bytesMoved m))

/-- TFR: `r2 <- r1` (R510); an undefined pair is a malformed operand (R509; log entry 17) -/
def execTfr (r1 r2 : Reg) (s : State) : Result :=
  if pairDefined r1 r2 then .next ((s.setReg r2 (s.reg r1)).tick 6)
  else .fault (.malformedOperand (pairByte r1 r2) s)

/-- EXG: both read before either is written (R511); an undefined pair is a malformed operand (R509; log entry 17) -/
def execExg (r1 r2 : Reg) (s : State) : Result :=
  if pairDefined r1 r2 then .next (((s.setReg r1 (s.reg r2)).setReg r2 (s.reg r1)).tick 8)
  else .fault (.malformedOperand (pairByte r1 r2) s)

end Sys2Proof.Machine
end

