-- ==== Sys2Proof/Machine/System.lean ====
section
/-! DEFINITION. No-op, software interrupts, return from interrupt, waits (spec/47_system.md rules R550-R556). -/

namespace Sys2Proof.Machine

/-- NOP (R550) -/
def execNop (s : State) : Result := .next (s.tick 2)

/-- SWI: the entire state pushed with E = 1, I and F set, vector 0xFFFA (R551) -/
def execSwi (s : State) : Result := .next ((takeException .entire true true 0xFFFA s).tick 19)

/-- SWI2: the entire state pushed with E = 1, no mask set, vector 0xFFF4 (R552) -/
def execSwi2 (s : State) : Result := .next ((takeException .entire false false 0xFFF4 s).tick 20)

/-- SWI3: the entire state pushed with E = 1, no mask set, vector 0xFFF2 (R553) -/
def execSwi3 (s : State) : Result := .next ((takeException .entire false false 0xFFF2 s).tick 20)

/-- RTI (R554); the surcharge of 9 ticks where the pulled E is 1 -/
def execRti (s : State) : Result :=
  let full := (pullInto8 .s State.setCCByte s).cc.e
  .next ((returnFromException s).tick (if full then 15 else 6))

/-- CWAI: `CC <- CC & m; E <- 1`, the entire state pushed, then the wait (R555) -/
def execCwai (v : Byte) (s : State) : Result :=
  let s1 := pushFrame .entire (s.setCC (s.cc.andByte v))
  .next ({ s1 with cwaiWait := true }.tick 20)

/-- SYNC: the wait, with nothing pushed (R556) -/
def execSync (s : State) : Result := .next ({ s with syncWait := true }.tick 4)

end Sys2Proof.Machine
end

