-- ==== Sys2Proof/Machine/Unary.lean ====
section
/-! DEFINITION. Unary operations on A, B and memory (spec/43_unary_rmw.md rules R350-R394). -/

namespace Sys2Proof.Machine

/-- `r <- Op(r); r' <- r` on an accumulator (R350). -/
def unaryAcc (get : State → Byte) (set : State → Byte → State) (law : Byte → CC → Byte × CC) (s : State) : State :=
  let (r, cc) := law (get s) s.cc
  (set (s.setCC cc) r).tick 2

/-- Read at EA, `Op`, write at the same EA: once each, in this order (R350). -/
def unaryMem (law : Byte → CC → Byte × CC) (m : MemOperand) (s : State) : State :=
  let (ea, s1) := effectiveAddress m s
  let (a, s2) := readByte ea s1
  let (r, cc) := law a s2.cc
  (writeByte ea r (s2.setCC cc)).tick (memTicks 6 m)

/-- As `unaryMem`, with H per `UNDEF_FLAGS` (R350, R351, R367, R371). -/
def unaryMemH (law : Byte → CC → Byte × CC) (m : MemOperand) (s : State) : State :=
  let (ea, s1) := effectiveAddress m s
  let (a, s2) := readByte ea s1
  let s3 := drawH s2
  let (r, cc) := law a s3.cc
  (writeByte ea r (s3.setCC cc)).tick (memTicks 6 m)

/-- TST of an accumulator: flags only (R387). -/
def testAcc (get : State → Byte) (s : State) : State := (s.setCC (Flags.tst (get s) s.cc)).tick 2

/-- TST of memory: one read, no write (R387, R390). -/
def testMem (m : MemOperand) (s : State) : State :=
  let (ea, s1) := effectiveAddress m s
  let (a, s2) := readByte ea s1
  (s2.setCC (Flags.tst a s2.cc)).tick (memTicks 6 m)

/-- CLR of an accumulator (R391). -/
def clearAcc (set : State → Byte → State) (s : State) : State := (set (s.setCC (Flags.clr s.cc)) 0).tick 2

/-- CLR of memory: no read, one write of 0x00 (R391, R394). -/
def clearMem (m : MemOperand) (s : State) : State :=
  let (ea, s1) := effectiveAddress m s
  (writeByte ea 0 (s1.setCC (Flags.clr s1.cc))).tick (memTicks 6 m)

/-- NEGA (R352) -/
def execNega (s : State) : Result := .next (unaryAcc State.a State.setA Flags.neg (drawH s))

/-- NEGB (R353) -/
def execNegb (s : State) : Result := .next (unaryAcc State.b State.setB Flags.neg (drawH s))

/-- NEG memory (R354) -/
def execNeg (m : MemOperand) (s : State) : Result := .next (unaryMemH Flags.neg m s)

/-- COMA (R356) -/
def execComa (s : State) : Result := .next (unaryAcc State.a State.setA Flags.com s)

/-- COMB (R357) -/
def execComb (s : State) : Result := .next (unaryAcc State.b State.setB Flags.com s)

/-- COM memory (R358) -/
def execCom (m : MemOperand) (s : State) : Result := .next (unaryMem Flags.com m s)

/-- LSRA (R360) -/
def execLsra (s : State) : Result := .next (unaryAcc State.a State.setA Flags.lsr s)

/-- LSRB (R361) -/
def execLsrb (s : State) : Result := .next (unaryAcc State.b State.setB Flags.lsr s)

/-- LSR memory (R362) -/
def execLsr (m : MemOperand) (s : State) : Result := .next (unaryMem Flags.lsr m s)

/-- RORA (R364) -/
def execRora (s : State) : Result := .next (unaryAcc State.a State.setA Flags.ror s)

/-- RORB (R365) -/
def execRorb (s : State) : Result := .next (unaryAcc State.b State.setB Flags.ror s)

/-- ROR memory (R366) -/
def execRor (m : MemOperand) (s : State) : Result := .next (unaryMem Flags.ror m s)

/-- ASRA (R368) -/
def execAsra (s : State) : Result := .next (unaryAcc State.a State.setA Flags.asr (drawH s))

/-- ASRB (R369) -/
def execAsrb (s : State) : Result := .next (unaryAcc State.b State.setB Flags.asr (drawH s))

/-- ASR memory (R370) -/
def execAsr (m : MemOperand) (s : State) : Result := .next (unaryMemH Flags.asr m s)

/-- ASLA (R372) -/
def execAsla (s : State) : Result := .next (unaryAcc State.a State.setA Flags.asl (drawH s))

/-- ASLB (R373) -/
def execAslb (s : State) : Result := .next (unaryAcc State.b State.setB Flags.asl (drawH s))

/-- ASL memory (R374) -/
def execAsl (m : MemOperand) (s : State) : Result := .next (unaryMemH Flags.asl m s)

/-- ROLA (R376) -/
def execRola (s : State) : Result := .next (unaryAcc State.a State.setA Flags.rol s)

/-- ROLB (R377) -/
def execRolb (s : State) : Result := .next (unaryAcc State.b State.setB Flags.rol s)

/-- ROL memory (R378) -/
def execRol (m : MemOperand) (s : State) : Result := .next (unaryMem Flags.rol m s)

/-- DECA (R380) -/
def execDeca (s : State) : Result := .next (unaryAcc State.a State.setA Flags.dec s)

/-- DECB (R381) -/
def execDecb (s : State) : Result := .next (unaryAcc State.b State.setB Flags.dec s)

/-- DEC memory (R382) -/
def execDec (m : MemOperand) (s : State) : Result := .next (unaryMem Flags.dec m s)

/-- INCA (R384) -/
def execInca (s : State) : Result := .next (unaryAcc State.a State.setA Flags.inc s)

/-- INCB (R385) -/
def execIncb (s : State) : Result := .next (unaryAcc State.b State.setB Flags.inc s)

/-- INC memory (R386) -/
def execInc (m : MemOperand) (s : State) : Result := .next (unaryMem Flags.inc m s)

/-- TSTA (R388) -/
def execTsta (s : State) : Result := .next (testAcc State.a s)

/-- TSTB (R389) -/
def execTstb (s : State) : Result := .next (testAcc State.b s)

/-- TST memory (R390) -/
def execTst (m : MemOperand) (s : State) : Result := .next (testMem m s)

/-- CLRA (R392) -/
def execClra (s : State) : Result := .next (clearAcc State.setA s)

/-- CLRB (R393) -/
def execClrb (s : State) : Result := .next (clearAcc State.setB s)

/-- CLR memory (R394) -/
def execClr (m : MemOperand) (s : State) : Result := .next (clearMem m s)

end Sys2Proof.Machine
end

