-- ==== Sys2Proof/Machine/Fetch.lean ====
section
/-! DEFINITION. Fetching an instruction (spec/30_encoding.md rules R160-R166, spec/60_exceptions.md rules
R600-R606): byte after byte at PC, as many as the instruction has. -/

namespace Sys2Proof.Machine

/-- What the fetch answers: the instruction with the state whose PC is past it, or what ends the step. -/
inductive Fetched where
  | instr (i : Instr) (s : State)
  | stop (r : Result)

/-- Bytes are fetched until they are a complete instruction, or an undefined opcode or postbyte, which ends the
step at once with PC past the bytes fetched (R603-R606, R609). `fuel` bounds the bytes still to come. -/
def fetchFrom (fuel : Nat) (bytes : List Byte) (s : State) : Fetched :=
  match fuel with
  | 0 => .stop (.refused .instructionTooLong)
  | n + 1 =>
    let (b, s1) := fetch8 s
    match decode s1.cfg.pcrRegBits (bytes ++ [b]) with
    | .instr i _ => .instr i s1
    | .more => fetchFrom n (bytes ++ [b]) s1
    | .undefinedOpcode op => .stop (.fault (.decodeError op s1))
    | .malformedOperand pb => .stop (.fault (.malformedOperand pb s1))

/-- The instruction at PC, of one to five bytes (R160). -/
def fetch (s : State) : Fetched := fetchFrom 5 [] s

/-- The service point of a step that did not end in an error; none after an error (R600, R604, R606, R617). -/
def thenService : Result → Result
  | .next s => .next (service s)
  | .fault r => .fault r
  | .refused r => .refused r

/-- A step that only waits: nothing is fetched, one tick, then the service point (R601). -/
def waitStep (s : State) : State := service (s.tick Config.waitTicks)

/-- A byte placed where a fetch at `va` reads it: in RAM, in the ROM image that covers `va`, or in the vector
window's image. `va` lies outside the I/O window (log entry 19). -/
def placeByte (s : State) (va : Word) (v : Byte) : State :=
  if inVectors va then { s with sysRom := s.sysRom.write (0x7FF0 + (va.toNat - Config.vectorBase)) v }
  else match s.ramAt va with
    | some pa => { s with ram := s.ram.write pa v }
    | none =>
      let off := s.romOffset va
      if s.romMode = 0b11 then { s with cartRom := s.cartRom.write off v, cartSize := max s.cartSize (off + 1) }
      else if s.romMode = 0b10 ∨ off < 0x4000 then { s with sysRom := s.sysRom.write off v }
      else { s with cartRom := s.cartRom.write (off - 0x4000) v, cartSize := max s.cartSize (off - 0x4000 + 1) }

/-- Bytes placed at successive addresses. -/
def placeBytes (s : State) (va : Word) : List Byte → State
  | [] => s
  | b :: rest => placeBytes (placeByte s va b) (va + 1) rest

/-- Whether the five bytes from `va` on touch the I/O window, where no byte can be placed. -/
def touchesIo (va : Word) : Bool := inIo va || inIo (va + 1) || inIo (va + 2) || inIo (va + 3) || inIo (va + 4)

/-- A state that fetches at its next step: no wait, and PC away from the I/O window (log entry 19). -/
def readyToFetch (s : State) : State :=
  { s with cwaiWait := false, syncWait := false, pc := if touchesIo s.pc then 0 else s.pc }

end Sys2Proof.Machine
end

