-- ==== Sys2Proof/Machine/Step.lean ====
section
/-! DEFINITION. One step of the machine (spec/60_exceptions.md rules R600, R601). -/

namespace Sys2Proof.Machine

/-- `step()`: a wait step, or the instruction at PC and then the service point (R600, R601, R617). -/
def step (s : State) : Host.Outcome State Fault Refusal :=
  if s.cwaiWait || s.syncWait then .next (waitStep s)
  else match fetch s with
    | .instr i s1 => thenService (exec i s1)
    | .stop r => r

/-- `s` with the instruction of a table word stored where `step` fetches its next instruction (log entry 19). -/
def State.withFetchWord (s : State) (nbits w : Nat) : State :=
  let s1 := readyToFetch s
  placeBytes s1 s1.pc (tableBytes nbits w)

end Sys2Proof.Machine
end

