-- ==== Sys2Proof/Machine/HostCalls.lean ====
section
/-! DEFINITION. The calls a host makes between steps (spec/60_exceptions.md rules R615, R629,
spec/70_reset_and_hazards.md rules R650, R651). No step makes one. -/

namespace Sys2Proof.Machine

/-- `scheduleIRQ()` (R615). -/
def scheduleIrq (s : State) : State := { s with irqLatch := true }

/-- `scheduleFIRQ()` (R615). -/
def scheduleFirq (s : State) : State := { s with firqLatch := true }

/-- `scheduleNMI()` (R615). -/
def scheduleNmi (s : State) : State := { s with nmiLatch := true }

/-- A PAR set of free values, the n-th drawn byte on. -/
def drawnPars (n : Nat) : ParSet :=
  { p0 := Config.freeByte n, p1 := Config.freeByte (n + 1), p2 := Config.freeByte (n + 2), p3 := Config.freeByte (n + 3),
    p4 := Config.freeByte (n + 4), p5 := Config.freeByte (n + 5), p6 := Config.freeByte (n + 6), p7 := Config.freeByte (n + 7) }

/-- The fields `reset()` gives a value, all but PC (R650). -/
def resetFields (s : State) : State :=
  { s with
    irqLatch := false, firqLatch := false, nmiLatch := false
    cwaiWait := false, syncWait := false
    cc := CC.ofByte 0x50
    dp := 0
    mmuEnabled := false, executiveEnabled := true, allRAM := false
    romMode := s.cfg.resetRomMode }

/-- What R85 leaves unspecified after a reset, but RAM: free values (log entry 16). -/
def drawUnspecified (s : State) : State :=
  let n := s.draws
  { s with
    a := Config.freeByte n, b := Config.freeByte (n + 1)
    x := Config.freeWord (n + 2), y := Config.freeWord (n + 3), u := Config.freeWord (n + 4), sp := Config.freeWord (n + 5)
    parExec := drawnPars (n + 6), parTask := drawnPars (n + 14)
    draws := n + 22 }

/-- `reset()` (R650, R651, R85): PC is read from the reset vector after the MMU fields are reset. -/
def hostReset (s : State) : State :=
  let (target, s1) := readWord 0xFFFE (drawUnspecified (resetFields s))
  s1.setPc target

end Sys2Proof.Machine
end

