-- ==== Sys2Proof/Safety.lean ====
section
/-! DEFINITION. The terms claims are stated in: the invariant of the state, what a byte access may change besides
memory, what the resolver may change, and when a step completes. -/

namespace Sys2Proof.Machine

/-- The invariant: RAM and both ROM images are in canonical form within their sizes (R6, R78), and the machine
never waits in both ways at once (R80, R81). -/
def State.wf (s : State) : Bool :=
  Memory.wf 0 Config.ramSize s.ram && Memory.wf 0 Config.romSize s.sysRom && Memory.wf 0 s.cartSize s.cartRom &&
    decide (s.cartSize ≤ Config.romSize) && !(s.cwaiWait && s.syncWait)

/-- Whether a step completes, that is ends without an error (R602). -/
def completes (s : State) : Bool :=
  match step s with
  | .next _ => true
  | .fault _ => false
  | .refused _ => false

/-- The state a host that calls `step` again after an error continues from (R607). -/
def Fault.after : Fault → State
  | .decodeError _ s => s
  | .malformedOperand _ s => s

/-- `s` but for what an access in the I/O window or a free value may change: the latches a device sets, the
count of drawn values, the answers left and the events recorded (R108, R113), all as `t` has them. -/
def busFrame (s t : State) : State :=
  { s with
    irqLatch := t.irqLatch, firqLatch := t.firqLatch, nmiLatch := t.nmiLatch
    draws := t.draws, deviceAnswers := t.deviceAnswers, events := t.events }

/-- What the resolver adds to an index register: +1, +2, -1 or -2 for the auto forms, else nothing (R213-R216, R228). -/
def indexDelta : MemOperand → IndexReg → Word
  | .idx (.postInc1 q), r => if q = r then 1 else 0
  | .idx (.postInc2 q _), r => if q = r then 2 else 0
  | .idx (.preDec1 q), r => if q = r then -1 else 0
  | .idx (.preDec2 q _), r => if q = r then -2 else 0
  | _, _ => 0

/-- `indexDelta` of an 8-bit operand; an immediate has none. -/
def indexDelta8 : Operand8 → IndexReg → Word
  | .imm _, _ => 0
  | .mem m, r => indexDelta m r

/-- `indexDelta` of a 16-bit operand; an immediate has none. -/
def indexDelta16 : Operand16 → IndexReg → Word
  | .imm _, _ => 0
  | .mem m, r => indexDelta m r

/-- `s` but for what resolving and reading an operand may change: the index register of an auto form, by `delta`,
and what `busFrame` lists. -/
def resolvedFrame (delta : IndexReg → Word) (s t : State) : State :=
  { busFrame s t with
    x := s.x + delta .x, y := s.y + delta .y, u := s.u + delta .u, sp := s.sp + delta .s }

/-- `s` with the memory and the MMU state of `t`: what a store may change besides its flags (R111). -/
def storeFrame (s t : State) : State :=
  { s with
    ram := t.ram, mmuEnabled := t.mmuEnabled, executiveEnabled := t.executiveEnabled, allRAM := t.allRAM
    romMode := t.romMode, parExec := t.parExec, parTask := t.parTask }

/-- The MMU's state as one value (R71-R77). -/
def State.mmu (s : State) : Bool × Bool × Bool × BitVec 2 × ParSet × ParSet :=
  (s.mmuEnabled, s.executiveEnabled, s.allRAM, s.romMode, s.parExec, s.parTask)

/-- Whether an MMU control register stands at an address (R130-R133). -/
def isMmuRegister (va : Word) : Bool :=
  decide (va = 0xFF90) || decide (va = 0xFF91) || isPar va || decide (va = 0xFFDE) || decide (va = 0xFFDF)

/-- Whether a virtual address reads without any effect on the state: the vector window, RAM, or a byte of a ROM
image (R108, R110, R125). -/
def plainRead (va : Word) (s : State) : Bool :=
  inVectors va ||
    (!inIo va &&
      (!s.overlaid va ||
        (if s.romMode = 0b11 then decide (s.romOffset va < s.cartSize)
         else decide (s.romMode = 0b10) || decide (s.romOffset va < 0x4000) ||
           decide (s.romOffset va - 0x4000 < s.cartSize))))

/-- The RAM byte a virtual address reaches, read. -/
def State.ramByte (s : State) (va : Word) : Option Byte := (s.ramAt va).map s.ram.read

/-- Whether the `n` bytes from a virtual address on are all RAM (R501, R505). -/
def State.ramRun (s : State) (va : Word) : Nat → Bool
  | 0 => true
  | n + 1 => (s.ramAt va).isSome && State.ramRun s (va + 1) n

/-- The RAM bytes from a virtual address on. -/
def State.ramBytes (s : State) (va : Word) : Nat → List (Option Byte)
  | 0 => []
  | n + 1 => s.ramByte va :: State.ramBytes s (va + 1) n

/-- Whether one of the `n` bytes from a virtual address on is the RAM byte at a physical address. -/
def State.reaches (s : State) (va : Word) (pa : Nat) : Nat → Bool
  | 0 => false
  | n + 1 => s.ramAt va == some pa || State.reaches s (va + 1) pa n

/-- Whether none of the `n` bytes from a virtual address on is an MMU control register (R130-R133). -/
def avoidsMmu (va : Word) : Nat → Bool
  | 0 => true
  | n + 1 => !isMmuRegister va && avoidsMmu (va + 1) n

/-- Whether the `n` bytes from a virtual address on all read without any effect (R108). -/
def State.plainRun (s : State) (va : Word) : Nat → Bool
  | 0 => true
  | n + 1 => plainRead va s && State.plainRun s (va + 1) n

/-- The byte read `k` bytes above a virtual address, in the state `s`. -/
def State.byteAt (s : State) (va : Word) (k : Nat) : Byte := (readByte (va + BitVec.ofNat 16 k) s).1

/-- The state after the resolver: the index register of an auto form moved, the accesses of an indirection made. -/
def afterAddress (m : MemOperand) (s : State) : State := resolvedFrame (indexDelta m) s (effectiveAddress m s).2

/-- The state after an 8-bit operand was resolved and read. -/
def afterOperand8 (o : Operand8) (s : State) : State := resolvedFrame (indexDelta8 o) s (operand8 o s).2

/-- The state after a 16-bit operand was resolved and read. -/
def afterOperand16 (o : Operand16) (s : State) : State := resolvedFrame (indexDelta16 o) s (operand16 o s).2

/-- What storing `bytes` from the virtual address `base` on makes of the memory of `s`, `t` being the state after:
every RAM byte the run does not reach reads as before, the MMU is unchanged where the run avoids its registers, and
where the whole run is RAM it holds the bytes and no device saw an access. -/
def storesRun (base : Word) (bytes : List Byte) (s t : State) : Prop :=
  (bytes.length ≤ 2 ∨ avoidsMmu base bytes.length = true →
    ∀ pa, s.reaches base pa bytes.length = false → t.ram.read pa = s.ram.read pa) ∧
  (avoidsMmu base bytes.length = true → t.mmu = s.mmu) ∧
  (s.ramRun base bytes.length = true → busFrame t s = t ∧ t.ramBytes base bytes.length = bytes.map some)

/-- An entire frame, from the new S upward: CC, A, B, DP, X, Y, U, PC (R502). -/
def entireBytes (cc : CC) (s : State) : List Byte :=
  [cc.toByte, s.a, s.b, s.dp, hiByte s.x, loByte s.x, hiByte s.y, loByte s.y, hiByte s.u, loByte s.u,
    hiByte s.pc, loByte s.pc]

/-- A FIRQ frame, from the new S upward: CC, PC (R620). -/
def reducedBytes (cc : CC) (s : State) : List Byte := [cc.toByte, hiByte s.pc, loByte s.pc]

/-- The bytes a push mask selects, from the new stack pointer upward: CC, A, B, DP, X, Y, the other stack pointer,
PC (R503). -/
def pushedBytes (k : StackPtr) (m : Byte) (s : State) : List Byte :=
  (if m.getLsbD 0 then [s.cc.toByte] else []) ++ (if m.getLsbD 1 then [s.a] else []) ++
    (if m.getLsbD 2 then [s.b] else []) ++ (if m.getLsbD 3 then [s.dp] else []) ++
    (if m.getLsbD 4 then [hiByte s.x, loByte s.x] else []) ++ (if m.getLsbD 5 then [hiByte s.y, loByte s.y] else []) ++
    (if m.getLsbD 6 then [hiByte (s.stack k.other), loByte (s.stack k.other)] else []) ++
    (if m.getLsbD 7 then [hiByte s.pc, loByte s.pc] else [])

/-- The vector at an address of the vector window, read from the top 16 bytes of `SYS_ROM` (R112, R611). -/
def State.vector (s : State) (va : Word) : Word :=
  word (s.sysRom.read (0x7FF0 + (va.toNat - 0xFFF0))) (s.sysRom.read (0x7FF0 + (va.toNat - 0xFFF0) + 1))

/-- The service point makes `t` of `s` but for S and RAM: where `bytes` fit in RAM below S, they are what stands there,
S is down by their number, and every other byte of RAM reads as before (R500, R502, R619-R621). -/
def servicePushes (s : State) (bytes : List Byte) (t : State) : Prop :=
  let base := s.sp - BitVec.ofNat 16 bytes.length
  s.ramRun base bytes.length = true →
    service s = { t with ram := (service s).ram, sp := base } ∧
    (service s).ramBytes base bytes.length = bytes.map some ∧
    ∀ pa, s.reaches base pa bytes.length = false → (service s).ram.read pa = s.ram.read pa

/-- `n` bytes fetched, one after the other, and the state after them (R166). -/
def fetchBytes : Nat → State → List Byte × State
  | 0, s => ([], s)
  | n + 1, s => ((fetch8 s).1 :: (fetchBytes n (fetch8 s).2).1, (fetchBytes n (fetch8 s).2).2)

/-- Whether writing one of two registers of EXG/TFR changes what the other reads as: D is A and B (R53, R508). -/
def sharesStorage (q r : Reg) : Bool :=
  q == r || (q == .d && (r == .a || r == .b)) || (r == .d && (q == .a || q == .b))

end Sys2Proof.Machine
end

