-- ==== Sys2Proof/Certificates/Slice0/Obligations.lean ====
section
/-! DEFINITION. The statements for the provers. Each docstring names the rules of spec/ the statement rests on.
`afterAddress`, `afterOperand8` and `afterOperand16` (Safety) are frames: they keep every field of the state but the
index register of an auto form and what `busFrame` lists, so that a result written over one of them says what the
instruction leaves unchanged as well. Every clause about `ticks` is about the sum the model keeps (log entry 12). -/

open Sys2Proof Sys2Proof.Machine

/-! ### Encoding -/

/-- Decoding the encoding of a well-formed instruction gives it back, whatever follows it, for either setting of
`PCR_REG_BITS` (R160-R172, R175, R210-R225, R508). -/
def Obligations.DecodeEncodeRoundTrip : Prop :=
  ∀ (p : PcrRegBits) (i : Instr) (rest : List Byte), i.wf = true → decode p (encode i ++ rest) = .instr i rest

/-- Where only the canonical PC-relative postbytes are admitted, an instruction has one encoding: the bytes decoded
are the bytes encoded, and the instruction is well formed (R160, R175, R211, R509). -/
def Obligations.DecodedBytesAreTheEncoding : Prop :=
  ∀ (bs rest : List Byte) (i : Instr), decode .malformed bs = .instr i rest → bs = encode i ++ rest ∧ i.wf = true

/-- Words written out from the spec's encodings decode to what they stand for: a sanity statement (R161, R168-R172). -/
def Obligations.WrittenWordsDecode : Prop :=
  decode .ignored [0x86, 0x80] = .instr (.lda (.imm 0x80)) [] ∧
  decode .ignored [0x10, 0x8E, 0x12, 0x34] = .instr (.ldy (.imm 0x1234)) [] ∧
  decode .ignored [0x9B, 0x40] = .instr (.adda (.mem (.dir 0x40))) [] ∧
  decode .ignored [0x6C, 0x61] = .instr (.inc (.idx (.off5 .s 1))) [] ∧
  decode .ignored [0x11, 0xB3, 0x20, 0x00] = .instr (.cmpu (.mem (.ext 0x2000))) [] ∧
  decode .ignored [0x10, 0x26, 0x10, 0x00] = .instr (.lbne 0x1000) [] ∧
  decode .ignored [0x1E, 0x89] = .instr (.exg .a .b) [] ∧
  decode .ignored [0x11, 0x3F] = .instr .swi3 []

/-- The longest instruction has five bytes: five bytes are never an instruction cut short (R160). -/
def Obligations.FiveBytesAreEnough : Prop :=
  ∀ (p : PcrRegBits) (bs : List Byte), 5 ≤ bs.length → decode p bs ≠ .more

/-- Exactly the 33 bytes of R176 are undefined on page 1, and on pages 2 and 3 every second byte but those R177 lists,
a second prefix byte among them; where they are fetched the step ends with DecodeError of the byte, or of the prefix
times 256 plus the byte, with PC past the bytes fetched (R162, R176, R177, R603). -/
def Obligations.UndefinedOpcodes : Prop :=
  ∀ (p : PcrRegBits) (op : Byte) (rest : List Byte) (s : State),
    let undefined1 : Prop :=
      op ∈ ([0x01, 0x02, 0x05, 0x0B, 0x14, 0x15, 0x18, 0x1B, 0x38, 0x3E, 0x41, 0x42, 0x45, 0x4B, 0x4E, 0x51, 0x52, 0x55,
        0x5B, 0x5E, 0x61, 0x62, 0x65, 0x6B, 0x71, 0x72, 0x75, 0x7B, 0x87, 0x8F, 0xC7, 0xCD, 0xCF] : List Byte)
    let undefined2 : Prop :=
      ¬ (0x21 ≤ op.toNat ∧ op.toNat ≤ 0x2F) ∧
      op ∉ ([0x3F, 0x83, 0x8C, 0x8E, 0x93, 0x9C, 0x9E, 0x9F, 0xA3, 0xAC, 0xAE, 0xAF, 0xB3, 0xBC, 0xBE, 0xBF, 0xCE, 0xDE,
        0xDF, 0xEE, 0xEF, 0xFE, 0xFF] : List Byte)
    let undefined3 : Prop := op ∉ ([0x3F, 0x83, 0x8C, 0x93, 0x9C, 0xA3, 0xAC, 0xB3, 0xBC] : List Byte)
    (decode p (op :: rest) = .undefinedOpcode (word 0 op) ↔ undefined1) ∧
    (decode p (0x10 :: op :: rest) = .undefinedOpcode (word 0x10 op) ↔ undefined2) ∧
    (decode p (0x11 :: op :: rest) = .undefinedOpcode (word 0x11 op) ↔ undefined3) ∧
    (s.cwaiWait = false → s.syncWait = false →
      (undefined1 → (fetchBytes 1 s).1 = [op] →
        ∃ t, step s = .fault (.decodeError (word 0 op) t) ∧ t.pc = s.pc + 1) ∧
      (undefined2 → (fetchBytes 2 s).1 = [0x10, op] →
        ∃ t, step s = .fault (.decodeError (word 0x10 op) t) ∧ t.pc = s.pc + 2) ∧
      (undefined3 → (fetchBytes 2 s).1 = [0x11, op] →
        ∃ t, step s = .fault (.decodeError (word 0x11 op) t) ∧ t.pc = s.pc + 2))

/-- In every instruction with an indexed mode, exactly the 36 postbytes of R227 are malformed, and the 15 of R211 where
`PCR_REG_BITS` is malformed (R178, R211, R227, R605). -/
def Obligations.IllegalIndexedPostbytes : Prop :=
  ∀ (p : PcrRegBits) (op pb : Byte) (rest : List Byte) (f : Indexed → Instr),
    let illegal : Prop :=
      (0x80 ≤ pb.toNat ∧ pb &&& 0x1F ∈ ([0x07, 0x0A, 0x0E, 0x0F, 0x10, 0x12, 0x17, 0x1A, 0x1E] : List Byte)) ∨
      (p = .malformed ∧ pb ∈ ([0xAC, 0xCC, 0xEC, 0xAD, 0xCD, 0xED, 0xBC, 0xDC, 0xFC, 0xBD, 0xDD, 0xFD, 0xBF, 0xDF,
        0xFF] : List Byte))
    (page1 op.toNat = some (.idx f) → (decode p (op :: pb :: rest) = .malformedOperand pb ↔ illegal)) ∧
    (page2 op.toNat = some (.idx f) → (decode p (0x10 :: op :: pb :: rest) = .malformedOperand pb ↔ illegal)) ∧
    (page3 op.toNat = some (.idx f) → (decode p (0x11 :: op :: pb :: rest) = .malformedOperand pb ↔ illegal))

/-- An EXG or TFR postbyte is defined iff both codes name registers of one width, codes 0 to 5 or 8 to 0xB, and then
names those registers in order; any other is malformed (R172, R508, R509). -/
def Obligations.TransferPostbytes : Prop :=
  ∀ (p : PcrRegBits) (pb : Byte) (rest : List Byte),
    let c1 := pb.extractLsb' 4 4
    let c2 := pb.extractLsb' 0 4
    let legal : Prop := (c1.toNat ≤ 5 ∧ c2.toNat ≤ 5) ∨ (8 ≤ c1.toNat ∧ c1.toNat ≤ 11 ∧ 8 ≤ c2.toNat ∧ c2.toNat ≤ 11)
    (legal → ∃ r1 r2 : Reg, r1.code = c1 ∧ r2.code = c2 ∧ decode p (0x1F :: pb :: rest) = .instr (.tfr r1 r2) rest ∧
      decode p (0x1E :: pb :: rest) = .instr (.exg r1 r2) rest) ∧
    (¬ legal → decode p (0x1F :: pb :: rest) = .malformedOperand pb ∧ decode p (0x1E :: pb :: rest) = .malformedOperand pb)

/-! ### The step and its errors -/

/-- Where the bytes fetched at PC are an instruction, the step is `exec` of it in the state after those fetches, then
the service point; no service point where `exec` ends in an error (R600, R617). That all bytes are fetched before anything
else of the instruction happens is the model's reading (log entry 13, DEDUCED). -/
def Obligations.StepRunsTheDecodedInstruction : Prop :=
  ∀ (s : State) (n : Nat) (i : Instr), s.cwaiWait = false → s.syncWait = false →
    decode s.cfg.pcrRegBits (fetchBytes n s).1 = .instr i [] →
    step s = match exec i (fetchBytes n s).2 with
      | .next t => .next (service t)
      | .fault r => .fault r
      | .refused r => .refused r

/-- Where the encoding of a well-formed instruction stands in plain memory at PC, the step is `exec` of it with PC past
it, then the service point (R57, R160, R166, R600). -/
def Obligations.StepRunsTheEncodedInstruction : Prop :=
  ∀ (s : State) (i : Instr), s.cwaiWait = false → s.syncWait = false → i.wf = true →
    (∀ k, (h : k < (encode i).length) → readByte (s.pc + BitVec.ofNat 16 k) s = ((encode i)[k], s)) →
    step s = match exec i { s with pc := s.pc + BitVec.ofNat 16 (encode i).length } with
      | .next t => .next (service t)
      | .fault r => .fault r
      | .refused r => .refused r

/-- Fetching advances PC by the bytes fetched and changes nothing else but what `busFrame` lists; where they are plain
memory, nothing at all (R57, R108, R166). -/
def Obligations.FetchFrame : Prop :=
  ∀ (n : Nat) (s : State),
    (fetchBytes n s).2 = { busFrame s (fetchBytes n s).2 with pc := s.pc + BitVec.ofNat 16 n } ∧
    (s.plainRun s.pc n = true →
      (fetchBytes n s).2 = { s with pc := s.pc + BitVec.ofNat 16 n } ∧
      (fetchBytes n s).1 = (List.range n).map (s.byteAt s.pc))

/-- An undefined opcode or a malformed postbyte ends the step at that byte: PC is past the bytes fetched so far,
nothing else is done and no interrupt is serviced (R603-R606, R609, R617). The state after the error is the MODEL'S
reading: the fault carries it (log entry 11, DESIGN CHOICE), and it is the state after the fetches, so that for code in
the I/O window what a device did at a fetch (latches, answers, events) stays, where R604 and R606 speak of the state
before the step (log entry 13, DEDUCED). -/
def Obligations.StepStopsAtTheOffendingByte : Prop :=
  ∀ (s : State) (n : Nat), s.cwaiWait = false → s.syncWait = false →
    decode s.cfg.pcrRegBits (fetchBytes n s).1 = .more →
    (∀ op, decode s.cfg.pcrRegBits (fetchBytes (n + 1) s).1 = .undefinedOpcode op →
      step s = .fault (.decodeError op (fetchBytes (n + 1) s).2)) ∧
    (∀ pb, decode s.cfg.pcrRegBits (fetchBytes (n + 1) s).1 = .malformedOperand pb →
      step s = .fault (.malformedOperand pb (fetchBytes (n + 1) s).2))

/-- A step ends in a next state with at least one tick more, or in one of the two errors, with no tick counted and
the opcode or the postbyte named; it never ends otherwise (R602). The tick sum in the state (log entry 12), the fault
that carries the state after an error (log entry 11), and that state being the one after the fetches with what devices
did at them kept (log entry 13) are the MODEL'S choice and reading. -/
def Obligations.StepOutcomes : Prop :=
  ∀ s : State,
    (∃ t, step s = .next t ∧ s.ticks + 1 ≤ t.ticks) ∨
    (∃ n op, step s = .fault (.decodeError op (fetchBytes n s).2) ∧
      (((fetchBytes n s).1 = [op.extractLsb' 0 8] ∧ op.toNat < 256) ∨
        ((fetchBytes n s).1 = [hiByte op, loByte op] ∧ (hiByte op = 0x10 ∨ hiByte op = 0x11)))) ∨
    (∃ n pb, step s = .fault (.malformedOperand pb (fetchBytes n s).2) ∧ (fetchBytes n s).1.getLast? = some pb)

/-- A waiting machine fetches nothing: with no latch set the step adds one tick and changes nothing else; in general it
adds one tick and runs the service point (R601, R80, R81; one tick: log entry 12). -/
def Obligations.WaitStep : Prop :=
  ∀ s : State, (s.cwaiWait || s.syncWait) = true →
    step s = .next (service { s with ticks := s.ticks + 1 }) ∧
    (s.irqLatch = false → s.firqLatch = false → s.nmiLatch = false → step s = .next { s with ticks := s.ticks + 1 })

/-! ### The service point and the host's calls -/

/-- A masked class is not serviced: with IRQ masked by I, FIRQ masked by F and no NMI, the service point changes nothing
but a SYNC wait, which any latch ends; the latches stay (R612, R613, R616, R618, R627). -/
def Obligations.MaskedInterruptsStayPending : Prop :=
  ∀ s : State, (s.irqLatch = true → s.cc.i = true) → (s.firqLatch = true → s.cc.f = true) → s.nmiLatch = false →
    service s = { s with syncWait := s.syncWait && !s.irqLatch && !s.firqLatch }

/-- IRQ service alone, outside a CWAI wait: the entire frame with E set, I set, PC from the vector, the latch and a SYNC
wait cleared (R502, R611, R619, R627). -/
def Obligations.IrqService : Prop :=
  ∀ s : State, s.cwaiWait = false → s.irqLatch = true → s.cc.i = false → (s.firqLatch = true → s.cc.f = true) →
    s.nmiLatch = false → s.ramRun (s.sp - 12) 12 = true →
    service s = { s with
      ram := (service s).ram, sp := s.sp - 12, cc := { s.cc with e := true, i := true }, pc := s.vector 0xFFF8
      irqLatch := false, syncWait := false } ∧
    (service s).ramBytes (s.sp - 12) 12 = (entireBytes { s.cc with e := true } s).map some ∧
    ∀ pa, s.reaches (s.sp - 12) pa 12 = false → (service s).ram.read pa = s.ram.read pa

/-- FIRQ service alone, outside a CWAI wait: PC and CC with E clear pushed, I and F set, PC from the vector (R611,
R620, R627). -/
def Obligations.FirqService : Prop :=
  ∀ s : State, s.cwaiWait = false → s.firqLatch = true → s.cc.f = false → (s.irqLatch = true → s.cc.i = true) →
    s.nmiLatch = false → s.ramRun (s.sp - 3) 3 = true →
    service s = { s with
      ram := (service s).ram, sp := s.sp - 3, cc := { s.cc with e := false, i := true, f := true }, pc := s.vector 0xFFF6
      firqLatch := false, syncWait := false } ∧
    (service s).ramBytes (s.sp - 3) 3 = (reducedBytes { s.cc with e := false } s).map some ∧
    ∀ pa, s.reaches (s.sp - 3) pa 3 = false → (service s).ram.read pa = s.ram.read pa

/-- NMI service alone, outside a CWAI wait, masked by nothing: the entire frame with E set, I and F set, PC from the
vector (R502, R611, R614, R621, R627). -/
def Obligations.NmiService : Prop :=
  ∀ s : State, s.cwaiWait = false → s.nmiLatch = true → (s.irqLatch = true → s.cc.i = true) →
    (s.firqLatch = true → s.cc.f = true) → s.ramRun (s.sp - 12) 12 = true →
    service s = { s with
      ram := (service s).ram, sp := s.sp - 12, cc := { s.cc with e := true, i := true, f := true }, pc := s.vector 0xFFFC
      nmiLatch := false, syncWait := false } ∧
    (service s).ramBytes (s.sp - 12) 12 = (entireBytes { s.cc with e := true } s).map some ∧
    ∀ pa, s.reaches (s.sp - 12) pa 12 = false → (service s).ram.read pa = s.ram.read pa

/-- Service from a CWAI wait: the first class serviced pushes nothing and ends the wait, E as CWAI left it; a second or a
third one at the same service point pushes its own frame, holding the vector of the service before it as PC
(R618-R623). -/
def Obligations.ServiceFromCwai : Prop :=
  ∀ s : State, s.cwaiWait = true → s.syncWait = false →
    (s.irqLatch = true → s.cc.i = false → (s.firqLatch = true → s.cc.f = true) → s.nmiLatch = false →
      service s = { s with cc := { s.cc with i := true }, pc := s.vector 0xFFF8, irqLatch := false, cwaiWait := false }) ∧
    (s.firqLatch = true → s.cc.f = false → (s.irqLatch = true → s.cc.i = true) → s.nmiLatch = false →
      service s = { s with
        cc := { s.cc with i := true, f := true }, pc := s.vector 0xFFF6, firqLatch := false, cwaiWait := false }) ∧
    (s.nmiLatch = true → (s.irqLatch = true → s.cc.i = true) → (s.firqLatch = true → s.cc.f = true) →
      service s = { s with
        cc := { s.cc with i := true, f := true }, pc := s.vector 0xFFFC, nmiLatch := false, cwaiWait := false }) ∧
    (s.irqLatch = true → s.cc.i = false → s.firqLatch = true → s.cc.f = false → s.nmiLatch = false →
      servicePushes s (reducedBytes { s.cc with e := false, i := true } { s with pc := s.vector 0xFFF8 })
        { s with
          cc := { s.cc with e := false, i := true, f := true }, pc := s.vector 0xFFF6
          irqLatch := false, firqLatch := false, cwaiWait := false }) ∧
    (s.irqLatch = true → s.cc.i = false → (s.firqLatch = true → s.cc.f = true) → s.nmiLatch = true →
      servicePushes s (entireBytes { s.cc with e := true, i := true } { s with pc := s.vector 0xFFF8 })
        { s with
          cc := { s.cc with e := true, i := true, f := true }, pc := s.vector 0xFFFC
          irqLatch := false, nmiLatch := false, cwaiWait := false }) ∧
    (s.firqLatch = true → s.cc.f = false → (s.irqLatch = true → s.cc.i = true) → s.nmiLatch = true →
      servicePushes s (entireBytes { s.cc with e := true, i := true, f := true } { s with pc := s.vector 0xFFF6 })
        { s with
          cc := { s.cc with e := true, i := true, f := true }, pc := s.vector 0xFFFC
          firqLatch := false, nmiLatch := false, cwaiWait := false }) ∧
    (s.irqLatch = true → s.cc.i = false → s.firqLatch = true → s.cc.f = false → s.nmiLatch = true →
      servicePushes s
        (entireBytes { s.cc with e := true, i := true, f := true } { s with pc := s.vector 0xFFF6 } ++
          reducedBytes { s.cc with e := false, i := true } { s with pc := s.vector 0xFFF8 })
        { s with
          cc := { s.cc with e := true, i := true, f := true }, pc := s.vector 0xFFFC
          irqLatch := false, firqLatch := false, nmiLatch := false, cwaiWait := false })

/-- Several unmasked latches at one service point outside a CWAI wait, all three and each two of them: IRQ, then FIRQ,
then NMI, each with its own frame below the one before, which holds the vector of the service before it as PC; with all
three the IRQ frame, then the FIRQ frame holding the IRQ vector, then the NMI frame holding the FIRQ vector, and PC ends
at the NMI vector (R618-R621, R623, R628). -/
def Obligations.AllThreeServicedInOrder : Prop :=
  ∀ s : State, s.cwaiWait = false →
    (s.irqLatch = true → s.cc.i = false → s.firqLatch = true → s.cc.f = false → s.nmiLatch = true →
      servicePushes s
        (entireBytes { s.cc with e := true, i := true, f := true } { s with pc := s.vector 0xFFF6 } ++
          reducedBytes { s.cc with e := false, i := true } { s with pc := s.vector 0xFFF8 } ++
          entireBytes { s.cc with e := true } s)
        { s with
          cc := { s.cc with e := true, i := true, f := true }, pc := s.vector 0xFFFC
          irqLatch := false, firqLatch := false, nmiLatch := false, syncWait := false }) ∧
    (s.irqLatch = true → s.cc.i = false → s.firqLatch = true → s.cc.f = false → s.nmiLatch = false →
      servicePushes s
        (reducedBytes { s.cc with e := false, i := true } { s with pc := s.vector 0xFFF8 } ++
          entireBytes { s.cc with e := true } s)
        { s with
          cc := { s.cc with e := false, i := true, f := true }, pc := s.vector 0xFFF6
          irqLatch := false, firqLatch := false, syncWait := false }) ∧
    (s.irqLatch = true → s.cc.i = false → (s.firqLatch = true → s.cc.f = true) → s.nmiLatch = true →
      servicePushes s
        (entireBytes { s.cc with e := true, i := true } { s with pc := s.vector 0xFFF8 } ++
          entireBytes { s.cc with e := true } s)
        { s with
          cc := { s.cc with e := true, i := true, f := true }, pc := s.vector 0xFFFC
          irqLatch := false, nmiLatch := false, syncWait := false }) ∧
    (s.firqLatch = true → s.cc.f = false → (s.irqLatch = true → s.cc.i = true) → s.nmiLatch = true →
      servicePushes s
        (entireBytes { s.cc with e := true, i := true, f := true } { s with pc := s.vector 0xFFF6 } ++
          reducedBytes { s.cc with e := false } s)
        { s with
          cc := { s.cc with e := true, i := true, f := true }, pc := s.vector 0xFFFC
          firqLatch := false, nmiLatch := false, syncWait := false })

/-- The values `reset()` gives, with PC read from the reset vector, and what it leaves: RAM, the ROM images and the
parameters (R85, R650, R651). The registers R85 leaves unspecified are not named here. -/
def Obligations.HostReset : Prop :=
  ∀ s : State, let t := hostReset s
    t.cc.toByte = 0x50 ∧ t.dp = 0x00 ∧ t.pc = s.vector 0xFFFE ∧
    t.mmuEnabled = false ∧ t.executiveEnabled = true ∧ t.allRAM = false ∧ t.romMode = s.cfg.resetRomMode ∧
    t.irqLatch = false ∧ t.firqLatch = false ∧ t.nmiLatch = false ∧ t.cwaiWait = false ∧ t.syncWait = false ∧
    t.ram = s.ram ∧ t.sysRom = s.sysRom ∧ t.cartRom = s.cartRom ∧ t.cartSize = s.cartSize ∧ t.cfg = s.cfg

/-- The state after reset holds the values R85 gives; the values of A, B, X, Y, U, S, the PARs and the memory are the
model's choice (log entries 1 to 4) and are not named here (R85). -/
def Obligations.ResetState : Prop :=
  let s := Sys2Proof.Machine.State.reset
  s.cc.toByte = 0x50 ∧ s.dp = 0x00 ∧ s.pc = s.vector 0xFFFE ∧
  s.mmuEnabled = false ∧ s.executiveEnabled = true ∧ s.allRAM = false ∧ s.romMode = s.cfg.resetRomMode ∧
  s.irqLatch = false ∧ s.firqLatch = false ∧ s.nmiLatch = false ∧ s.cwaiWait = false ∧ s.syncWait = false

/-- A scheduling call sets its own latch and changes nothing else, a second one before service has no effect, and a
latch set stays set whatever instruction runs: only service clears one (R615, R616). -/
def Obligations.LatchesWaitForService : Prop :=
  (∀ s : State,
    scheduleIrq s = { s with irqLatch := true } ∧ scheduleIrq (scheduleIrq s) = scheduleIrq s ∧
    scheduleFirq s = { s with firqLatch := true } ∧ scheduleFirq (scheduleFirq s) = scheduleFirq s ∧
    scheduleNmi s = { s with nmiLatch := true } ∧ scheduleNmi (scheduleNmi s) = scheduleNmi s) ∧
  (∀ (i : Instr) (s t : State), exec i s = .next t →
    (s.irqLatch = true → t.irqLatch = true) ∧ (s.firqLatch = true → t.firqLatch = true) ∧
    (s.nmiLatch = true → t.nmiLatch = true))

/-! ### Invariants -/

/-- The state after reset meets the invariant: canonical memories, at most one wait (R78, R80, R81). -/
def Obligations.ResetMeetsTheInvariant : Prop := Sys2Proof.Machine.State.reset.wf = true

/-- Every step keeps the invariant, and so does the state an error leaves, which the fault carries (R78, R80, R81, R604,
R606; log entry 11). -/
def Obligations.StepKeepsTheInvariant : Prop :=
  ∀ s : State, s.wf = true →
    (∀ t, step s = .next t → t.wf = true) ∧ (∀ f, step s = .fault f → f.after.wf = true)

/-- No step writes a ROM image, changes its size or a parameter, or takes back a recorded device access (R6, R78, R113,
R126), and neither does the state an error leaves (log entry 11). -/
def Obligations.StepKeepsRomAndParameters : Prop :=
  ∀ s t : State, (step s = .next t ∨ ∃ f, step s = .fault f ∧ f.after = t) →
    t.sysRom = s.sysRom ∧ t.cartRom = s.cartRom ∧ t.cartSize = s.cartSize ∧ t.cfg = s.cfg ∧
    (∃ l, t.events = s.events ++ l) ∧ s.draws ≤ t.draws

/-- The MMU's state changes only by a write to one of its registers: where a step recorded no such write, the MMU is as
before (R69, R111, R130-R133). -/
def Obligations.MmuChangesOnlyThroughItsRegisters : Prop :=
  ∀ (s t : State) (l : List Event), step s = .next t → t.events = s.events ++ l →
    (∀ va v, Event.write va v ∈ l → isMmuRegister va = false) → t.mmu = s.mmu

/-! ### Memory and MMU -/

/-- A byte written where the address reaches RAM is what every address that reaches the same physical byte reads, other
bytes of RAM read as before, and nothing else changes (R110, R111, R140). -/
def Obligations.RamReadsLastWrite : Prop :=
  ∀ (s : State) (va wa : Word) (v : Byte) (pa qa : Nat), s.ramAt va = some pa → s.ramAt wa = some qa →
    writeByte va v s = { s with ram := (writeByte va v s).ram } ∧
    readByte wa (writeByte va v s) =
      (if qa = pa then v else s.ram.read qa, writeByte va v s)

/-- Translation: page from the top three bits, the cell of the set in force masked to six bits, above the low thirteen
bits of the address (R120-R122). With the MMU disabled the fixed set is in force, 0x38 + i for page i, so that an address
translates to itself plus 0x70000 (R75, R123; the values are the spec's own decision, 92_eei_decisions D25). -/
def Obligations.Translation : Prop :=
  ∀ (s : State) (va : Word),
    let page := va.toNat / 8192
    let par := if s.mmuEnabled = false then defaultPar (BitVec.ofNat 3 page)
      else if s.executiveEnabled = true then s.parExec.get (BitVec.ofNat 3 page)
      else s.parTask.get (BitVec.ofNat 3 page)
    (s.translate va).toNat = par.toNat % 64 * 8192 + va.toNat % 8192 ∧ (s.physPage va).toNat = par.toNat % 64 ∧
    (∀ i : BitVec 3, (defaultPar i).toNat = 0x38 + i.toNat) ∧
    (s.mmuEnabled = false → (s.translate va).toNat = 0x70000 + va.toNat)

/-- A write to a translated page 0x3C to 0x3F changes no state unless all-RAM mode is active, and no write reaches a ROM
image (R126); in all-RAM mode every translated access reads and writes RAM, and the accesses to the I/O and the vector
window are those of the other mode (R127). -/
def Obligations.RomWritesAndAllRam : Prop :=
  ∀ (s : State) (va : Word) (v : Byte),
    (va.toNat < 0xFF00 → s.allRAM = false → 0x3C ≤ (s.physPage va).toNat → writeByte va v s = s) ∧
    (writeByte va v s).sysRom = s.sysRom ∧ (writeByte va v s).cartRom = s.cartRom ∧
    (va.toNat < 0xFF00 → s.allRAM = true →
      readByte va s = (s.ram.read (s.translate va).toNat, s) ∧
      writeByte va v s = { s with ram := s.ram.write (s.translate va).toNat v }) ∧
    (0xFF00 ≤ va.toNat → ∀ mode : Bool,
      readByte va { s with allRAM := mode } = ((readByte va s).1, { (readByte va s).2 with allRAM := mode }) ∧
      ∃ after : Bool, writeByte va v { s with allRAM := mode } = { writeByte va v s with allRAM := after })

/-- What ROM reads show: under the overlay 16 KiB of system ROM and 16 of cartridge in modes 0 and 1, system ROM in mode
2, cartridge in mode 3, for offsets within the cartridge image (R125); in the vector window 0xFFF0 to 0xFFFF the top 16
bytes of system ROM in every mode, where a write is discarded (R112). -/
def Obligations.RomReads : Prop :=
  ∀ (s : State) (va : Word),
    let off := ((s.physPage va).toNat - 0x3C) * 8192 + va.toNat % 8192
    (va.toNat < 0xFF00 → s.allRAM = false → 0x3C ≤ (s.physPage va).toNat →
      (s.romMode = 0 ∨ s.romMode = 1 → off < 0x4000 → readByte va s = (s.sysRom.read off, s)) ∧
      (s.romMode = 0 ∨ s.romMode = 1 → 0x4000 ≤ off → off - 0x4000 < s.cartSize →
        readByte va s = (s.cartRom.read (off - 0x4000), s)) ∧
      (s.romMode = 2 → readByte va s = (s.sysRom.read off, s)) ∧
      (s.romMode = 3 → off < s.cartSize → readByte va s = (s.cartRom.read off, s))) ∧
    (0xFFF0 ≤ va.toNat → readByte va s = (s.sysRom.read (va.toNat - 0x8000), s) ∧ ∀ v, writeByte va v s = s)

/-- The MMU control registers: a write reaches the device collaborators and sets what R130-R133 say; a write elsewhere
in the window sets nothing of the MMU. -/
def Obligations.MmuRegisterWrites : Prop :=
  ∀ (s : State) (v : Byte),
    writeByte 0xFF90 v s = { deviceWrite 0xFF90 v s with mmuEnabled := v.getLsbD 6, romMode := BitVec.ofNat 2 v.toNat } ∧
    writeByte 0xFF91 v s = { deviceWrite 0xFF91 v s with executiveEnabled := !v.getLsbD 0 } ∧
    writeByte 0xFFDE v s = { deviceWrite 0xFFDE v s with allRAM := false } ∧
    writeByte 0xFFDF v s = { deviceWrite 0xFFDF v s with allRAM := true } ∧
    (∀ i j : BitVec 3,
      let va := 0xFFA0 + i.setWidth 16
      (writeByte va v s).parExec.get j = (if j = i then v else s.parExec.get j) ∧
      (writeByte (va + 8) v s).parTask.get j = (if j = i then v else s.parTask.get j) ∧
      writeByte va v s = { deviceWrite va v s with parExec := (writeByte va v s).parExec } ∧
      writeByte (va + 8) v s = { deviceWrite (va + 8) v s with parTask := (writeByte (va + 8) v s).parTask }) ∧
    (∀ va : Word, 0xFF00 ≤ va.toNat → va.toNat < 0xFFF0 → isMmuRegister va = false → writeByte va v s = deviceWrite va v s)

/-- The I/O window: an access is recorded, in order; a read answers the device's byte where one is listed; the answer's
latches are set; a PAR read answers bits 5..0 of its cell and records nothing (R113, R134, R615; log entries 6, 7). -/
def Obligations.DeviceAccesses : Prop :=
  ∀ (s : State) (va : Word) (v : Byte), 0xFF00 ≤ va.toNat → va.toNat < 0xFFF0 →
    (¬ (0xFFA0 ≤ va.toNat ∧ va.toNat ≤ 0xFFAF) →
      (readByte va s).2.events = s.events ++ [.read va] ∧
      (∀ d rest, s.deviceAnswers = d :: rest →
        readByte va s = (d.value, { s with
          events := s.events ++ [.read va], deviceAnswers := rest, irqLatch := s.irqLatch || d.irq
          firqLatch := s.firqLatch || d.firq, nmiLatch := s.nmiLatch || d.nmi }))) ∧
    (0xFFA0 ≤ va.toNat ∧ va.toNat ≤ 0xFFAF → ∃ free : Byte,
      readByte va s = (free &&& 0xC0 ||| (if va.toNat < 0xFFA8 then s.parExec.get (BitVec.ofNat 3 va.toNat)
        else s.parTask.get (BitVec.ofNat 3 va.toNat)) &&& 0x3F, { s with draws := s.draws + 1 })) ∧
    (writeByte va v s).events = s.events ++ [.write va v] ∧
    (∀ d rest, s.deviceAnswers = d :: rest → deviceWrite va v s = { s with
      events := s.events ++ [.write va v], deviceAnswers := rest, irqLatch := s.irqLatch || d.irq
      firqLatch := s.firqLatch || d.firq, nmiLatch := s.nmiLatch || d.nmi })

/-- A word is two bytes, high byte first and at the lower address, the second address wrapping at the top (R103,
R104); a word written to RAM is read back, at any alignment (R105). -/
def Obligations.WordAccess : Prop :=
  ∀ (s : State) (a v : Word) (hi lo : Byte) (s1 s2 : State),
    (readByte a s = (hi, s1) → readByte (a + 1) s1 = (lo, s2) →
      (readWord a s).2 = s2 ∧ (readWord a s).1.toNat = hi.toNat * 256 + lo.toNat) ∧
    writeWord a v s = writeByte (a + 1) (BitVec.ofNat 8 v.toNat) (writeByte a (BitVec.ofNat 8 (v.toNat / 256)) s) ∧
    (s.ramRun a 2 = true → readWord a (writeWord a v s) = (v, writeWord a v s))

/-! ### Addressing modes -/

/-- The effective address of every form, over the integers mod 2^16: direct, extended, each indexed sub-mode without
indirection (R203, R204, R212-R224); an indirect sub-mode takes the pointer at the address its direct form gives, read
after the register update, and `[n16]` the pointer at n16 (R214, R216-R226). -/
def Obligations.EffectiveAddresses : Prop :=
  ∀ s : State,
    (∀ d : Byte, ((effectiveAddress (.dir d) s).1).toNat = s.dp.toNat * 256 + d.toNat) ∧
    (∀ a : Word, (effectiveAddress (.ext a) s).1 = a) ∧
    (∀ (n : Byte), (effectiveAddress (.idx (.pcr8 n false)) s).1 = BitVec.ofInt 16 (s.pc.toNat + n.toInt)) ∧
    (∀ (n : Word), (effectiveAddress (.idx (.pcr16 n false)) s).1 = BitVec.ofInt 16 (s.pc.toNat + n.toInt)) ∧
    (∀ r : IndexReg,
      let base : Int := (s.index r).toNat
      (∀ n, (effectiveAddress (.idx (.off5 r n)) s).1 = BitVec.ofInt 16 (base + n.toInt)) ∧
      (effectiveAddress (.idx (.postInc1 r)) s).1 = s.index r ∧
      (effectiveAddress (.idx (.postInc2 r false)) s).1 = s.index r ∧
      (effectiveAddress (.idx (.preDec1 r)) s).1 = BitVec.ofInt 16 (base - 1) ∧
      (effectiveAddress (.idx (.preDec2 r false)) s).1 = BitVec.ofInt 16 (base - 2) ∧
      (effectiveAddress (.idx (.zero r false)) s).1 = s.index r ∧
      (effectiveAddress (.idx (.accB r false)) s).1 = BitVec.ofInt 16 (base + s.b.toInt) ∧
      (effectiveAddress (.idx (.accA r false)) s).1 = BitVec.ofInt 16 (base + s.a.toInt) ∧
      (∀ n, (effectiveAddress (.idx (.off8 r n false)) s).1 = BitVec.ofInt 16 (base + n.toInt)) ∧
      (∀ n, (effectiveAddress (.idx (.off16 r n false)) s).1 = BitVec.ofInt 16 (base + n.toInt)) ∧
      (effectiveAddress (.idx (.accD r false)) s).1 =
        BitVec.ofInt 16 (base + (s.a.toNat * 256 + s.b.toNat))) ∧
    (∀ (r : IndexReg) (n8 : Byte) (n16 : Word),
      effectiveAddress (.idx (.extInd n16)) s = readWord n16 s ∧
      ∀ f ∈ ([fun ind => .postInc2 r ind, fun ind => .preDec2 r ind, fun ind => .zero r ind, fun ind => .accB r ind,
          fun ind => .accA r ind, fun ind => .off8 r n8 ind, fun ind => .off16 r n16 ind, fun ind => .accD r ind,
          fun ind => .pcr8 n8 ind, fun ind => .pcr16 n16 ind] : List (Bool → Indexed)),
        effectiveAddress (.idx (f true)) s =
          readWord (effectiveAddress (.idx (f false)) s).1 (effectiveAddress (.idx (f false)) s).2)

/-- What resolving and reading an operand may change: the index register of an auto form, by +1, +2, -1 or -2, none in any
other form, and what an I/O access or a free value may (`busFrame`); an operand in memory is read once at the effective
address, an immediate not at all (R202, R207, R212-R225, R228). The tick counts of the forms: an indexed one adds the
bytes it is encoded in, an extended one has one more than a direct one, a direct one two more than an immediate one
(R175, R228, R671). -/
def Obligations.OperandFrame : Prop :=
  ∀ s : State,
    (∀ m, (effectiveAddress m s).2 = afterAddress m s ∧
      ∀ r, (afterAddress m s).index r = s.index r + indexDelta m r) ∧
    (∀ o, (operand8 o s).2 = afterOperand8 o s) ∧ (∀ o, (operand16 o s).2 = afterOperand16 o s) ∧
    (∀ m, operand8 (.mem m) s = readByte (effectiveAddress m s).1 (afterAddress m s)) ∧
    (∀ m, operand16 (.mem m) s = readWord (effectiveAddress m s).1 (afterAddress m s)) ∧
    (∀ v, operand8 (.imm v) s = (v, s)) ∧ (∀ v, operand16 (.imm v) s = (v, s)) ∧
    (∀ q r, indexDelta (.idx (.postInc1 q)) r = (if q = r then 1 else 0)) ∧
    (∀ q r ind, indexDelta (.idx (.postInc2 q ind)) r = (if q = r then 2 else 0)) ∧
    (∀ q r, indexDelta (.idx (.preDec1 q)) r = (if q = r then 0xFFFF else 0)) ∧
    (∀ q r ind, indexDelta (.idx (.preDec2 q ind)) r = (if q = r then 0xFFFE else 0)) ∧
    (∀ (d n8 : Byte) (a n16 : Word) (n5 : BitVec 5) (q r : IndexReg) (ind : Bool), ∀ m ∈ ([.dir d, .ext a, .idx (.off5 q n5),
        .idx (.zero q ind), .idx (.accB q ind), .idx (.accA q ind), .idx (.off8 q n8 ind), .idx (.off16 q n16 ind),
        .idx (.accD q ind), .idx (.pcr8 n8 ind), .idx (.pcr16 n16 ind), .idx (.extInd n16)] : List MemOperand),
      indexDelta m r = 0) ∧
    (∀ m r, indexDelta8 (.mem m) r = indexDelta m r ∧ indexDelta16 (.mem m) r = indexDelta m r) ∧
    (∀ v w r, indexDelta8 (.imm v) r = 0 ∧ indexDelta16 (.imm w) r = 0) ∧
    (∀ ix, bytesConsumed ix = (encodeIndexed ix).length) ∧
    (∀ base d a ix, memTicks base (.dir d) = base ∧ memTicks base (.ext a) = base + 1 ∧
      memTicks base (.idx ix) = base + (encodeIndexed ix).length) ∧
    (∀ base v w m, ticks8 base (.imm v) = base ∧ ticks16 base (.imm w) = base ∧
      ticks8 base (.mem m) = memTicks (base + 2) m ∧ ticks16 base (.mem m) = memTicks (base + 2) m)

/-! ### Loads, stores and effective addresses -/

/-- Loads: the register takes the operand, N and Z are of it, V is cleared; nothing else but the operand's own effects
(R250-R257). -/
def Obligations.Loads : Prop :=
  ∀ s : State,
    (∀ o : Operand8,
      let v := (operand8 o s).1
      let r := afterOperand8 o s
      let cc := { s.cc with n := v.getLsbD 7, z := decide (v = 0), v := false }
      exec (.lda o) s = .next { r with a := v, cc := cc, ticks := s.ticks + ticks8 2 o } ∧
      exec (.ldb o) s = .next { r with b := v, cc := cc, ticks := s.ticks + ticks8 2 o }) ∧
    (∀ o : Operand16,
      let v := (operand16 o s).1
      let r := afterOperand16 o s
      let cc := { s.cc with n := v.getLsbD 15, z := decide (v = 0), v := false }
      exec (.ldd o) s = .next { r with a := hiByte v, b := loByte v, cc := cc, ticks := s.ticks + ticks16 3 o } ∧
      exec (.ldx o) s = .next { r with x := v, cc := cc, ticks := s.ticks + ticks16 3 o } ∧
      exec (.ldy o) s = .next { r with y := v, cc := cc, ticks := s.ticks + ticks16 4 o } ∧
      exec (.ldu o) s = .next { r with u := v, cc := cc, ticks := s.ticks + ticks16 3 o } ∧
      exec (.lds o) s = .next { r with sp := v, cc := cc, ticks := s.ticks + ticks16 4 o })

/-- Stores: the register, as the resolver left it, written at the effective address, high byte first; N and Z of it, V
cleared (R229, R250, R258-R264). -/
def Obligations.Stores : Prop :=
  ∀ (s : State) (m : MemOperand),
    let ea := (effectiveAddress m s).1
    let r := afterAddress m s
    let cc8 := fun v : Byte => { s.cc with n := v.getLsbD 7, z := decide (v = 0), v := false }
    let cc16 := fun v : Word => { s.cc with n := v.getLsbD 15, z := decide (v = 0), v := false }
    exec (.sta m) s = .next { writeByte ea s.a r with cc := cc8 s.a, ticks := s.ticks + memTicks 4 m } ∧
    exec (.stb m) s = .next { writeByte ea s.b r with cc := cc8 s.b, ticks := s.ticks + memTicks 4 m } ∧
    exec (.std m) s = .next { writeWord ea s.d r with cc := cc16 s.d, ticks := s.ticks + memTicks 5 m } ∧
    exec (.stx m) s = .next { writeWord ea r.x r with cc := cc16 r.x, ticks := s.ticks + memTicks 5 m } ∧
    exec (.sty m) s = .next { writeWord ea r.y r with cc := cc16 r.y, ticks := s.ticks + memTicks 6 m } ∧
    exec (.stu m) s = .next { writeWord ea r.u r with cc := cc16 r.u, ticks := s.ticks + memTicks 5 m } ∧
    exec (.sts m) s = .next { writeWord ea r.sp r with cc := cc16 r.sp, ticks := s.ticks + memTicks 6 m }

/-- LEA: the register takes the effective address, over the resolver's own update; LEAX and LEAY write Z and no other
flag, LEAU and LEAS none (R229, R265-R268). -/
def Obligations.LoadEffectiveAddress : Prop :=
  ∀ (s : State) (ix : Indexed),
    let ea := (effectiveAddress (.idx ix) s).1
    let r := afterAddress (.idx ix) s
    let n := s.ticks + (4 + bytesConsumed ix)
    exec (.leax ix) s = .next { r with x := ea, cc := { s.cc with z := decide (ea = 0) }, ticks := n } ∧
    exec (.leay ix) s = .next { r with y := ea, cc := { s.cc with z := decide (ea = 0) }, ticks := n } ∧
    exec (.leau ix) s = .next { r with u := ea, ticks := n } ∧
    exec (.leas ix) s = .next { r with sp := ea, ticks := n }

/-! ### Arithmetic and logic -/

/-- ADDA, ADDB, ADCA, ADCB: the sum mod 256; H the carry out of bit 3, C out of bit 7, V where operands of one sign give
a result of the other (R300, R303-R306). -/
def Obligations.Add8 : Prop :=
  ∀ (s : State) (o : Operand8),
    let m := (operand8 o s).1
    let r := afterOperand8 o s
    let res := fun (a : Byte) (cin : Bool) => BitVec.ofNat 8 (a.toNat + m.toNat + cin.toNat)
    let cc := fun (a : Byte) (cin : Bool) => { s.cc with
      h := decide (15 < a.toNat % 16 + m.toNat % 16 + cin.toNat)
      n := (res a cin).getLsbD 7, z := decide (res a cin = 0)
      v := a.getLsbD 7 == m.getLsbD 7 && (res a cin).getLsbD 7 != a.getLsbD 7
      c := decide (255 < a.toNat + m.toNat + cin.toNat) }
    exec (.adda o) s = .next { r with a := res s.a false, cc := cc s.a false, ticks := s.ticks + ticks8 2 o } ∧
    exec (.addb o) s = .next { r with b := res s.b false, cc := cc s.b false, ticks := s.ticks + ticks8 2 o } ∧
    exec (.adca o) s = .next { r with a := res s.a s.cc.c, cc := cc s.a s.cc.c, ticks := s.ticks + ticks8 2 o } ∧
    exec (.adcb o) s = .next { r with b := res s.b s.cc.c, cc := cc s.b s.cc.c, ticks := s.ticks + ticks8 2 o }

/-- SUBA, SUBB, SBCA, SBCB, CMPA, CMPB: the difference mod 256; C the borrow, V the signed overflow, H per
`UNDEF_FLAGS`; compares write no register (R301, R307-R312). What `drawFlag` gives, here and in DecimalAdjust,
UnaryOnAccumulators and UnaryOnMemory: with `unchanged` the old flag and the same state, with `draw` a free bit, a fresh
one each time, and one draw more (R12; the form of the draw is the model's: log entries 8, 9). -/
def Obligations.SubtractAndCompare8 : Prop :=
  (∀ (old : Bool) (s : State),
    (s.cfg.undefFlags = .unchanged → drawFlag old s = (old, s)) ∧
    (s.cfg.undefFlags = .draw → drawFlag old s = (Config.freeBit s.draws, { s with draws := s.draws + 1 }))) ∧
  ∀ (s : State) (o : Operand8),
    let m := (operand8 o s).1
    let h := (drawFlag s.cc.h (afterOperand8 o s)).1
    let r := (drawFlag s.cc.h (afterOperand8 o s)).2
    let res := fun (a : Byte) (cin : Bool) => BitVec.ofInt 8 ((a.toNat : Int) - m.toNat - cin.toNat)
    let signed := fun (a : Byte) (cin : Bool) => a.toInt - m.toInt - cin.toNat
    let cc := fun (a : Byte) (cin : Bool) => { s.cc with
      h := h, n := (res a cin).getLsbD 7, z := decide (res a cin = 0)
      v := decide (signed a cin < -128 ∨ 127 < signed a cin)
      c := decide (a.toNat < m.toNat + cin.toNat) }
    exec (.suba o) s = .next { r with a := res s.a false, cc := cc s.a false, ticks := s.ticks + ticks8 2 o } ∧
    exec (.subb o) s = .next { r with b := res s.b false, cc := cc s.b false, ticks := s.ticks + ticks8 2 o } ∧
    exec (.sbca o) s = .next { r with a := res s.a s.cc.c, cc := cc s.a s.cc.c, ticks := s.ticks + ticks8 2 o } ∧
    exec (.sbcb o) s = .next { r with b := res s.b s.cc.c, cc := cc s.b s.cc.c, ticks := s.ticks + ticks8 2 o } ∧
    exec (.cmpa o) s = .next { r with cc := cc s.a false, ticks := s.ticks + ticks8 2 o } ∧
    exec (.cmpb o) s = .next { r with cc := cc s.b false, ticks := s.ticks + ticks8 2 o }

/-- AND, OR, EOR and BIT of A and B, and ANDCC and ORCC: the bitwise result; N and Z of it and V cleared, H and C kept;
BIT writes no register; ANDCC and ORCC work on the whole of CC (R302, R313-R322). -/
def Obligations.Logic8 : Prop :=
  ∀ s : State,
    (∀ o : Operand8,
      let m := (operand8 o s).1
      let r := afterOperand8 o s
      let cc := fun v : Byte => { s.cc with n := v.getLsbD 7, z := decide (v = 0), v := false }
      let n := s.ticks + ticks8 2 o
      exec (.anda o) s = .next { r with a := s.a &&& m, cc := cc (s.a &&& m), ticks := n } ∧
      exec (.andb o) s = .next { r with b := s.b &&& m, cc := cc (s.b &&& m), ticks := n } ∧
      exec (.ora o) s = .next { r with a := s.a ||| m, cc := cc (s.a ||| m), ticks := n } ∧
      exec (.orb o) s = .next { r with b := s.b ||| m, cc := cc (s.b ||| m), ticks := n } ∧
      exec (.eora o) s = .next { r with a := s.a ^^^ m, cc := cc (s.a ^^^ m), ticks := n } ∧
      exec (.eorb o) s = .next { r with b := s.b ^^^ m, cc := cc (s.b ^^^ m), ticks := n } ∧
      exec (.bita o) s = .next { r with cc := cc (s.a &&& m), ticks := n } ∧
      exec (.bitb o) s = .next { r with cc := cc (s.b &&& m), ticks := n }) ∧
    (∀ m : Byte,
      exec (.andcc m) s = .next { s with cc := CC.ofByte (s.cc.toByte &&& m), ticks := s.ticks + 3 } ∧
      exec (.orcc m) s = .next { s with cc := CC.ofByte (s.cc.toByte ||| m), ticks := s.ticks + 3 })

/-- MUL, SEX and ABX: the unsigned product in D with Z and C alone; the sign of B in A with N and Z and V per `SEX_V`;
B added unsigned to X with no flag (R324-R326). -/
def Obligations.MultiplyExtendAddIndex : Prop :=
  ∀ s : State,
    (∃ t, exec .mul s = .next t ∧ t.d.toNat = s.a.toNat * s.b.toNat ∧
      t = { s with
        a := t.a, b := t.b, ticks := s.ticks + 11
        cc := { s.cc with z := decide (s.a = 0 ∨ s.b = 0), c := decide (128 ≤ s.a.toNat * s.b.toNat % 256) } }) ∧
    (∃ t, exec .sex s = .next t ∧ t.d.toInt = s.b.toInt ∧
      t = { s with
        a := t.a, ticks := s.ticks + 2
        cc := { s.cc with
          n := decide (s.b.toInt < 0), z := decide (s.b = 0)
          v := s.cc.v && decide (s.cfg.sexV = .unchanged) } }) ∧
    exec .abx s = .next { s with x := BitVec.ofNat 16 (s.x.toNat + s.b.toNat), ticks := s.ticks + 3 }

/-- DAA: the correction of R323, C set by a high correction and never cleared, V per `UNDEF_FLAGS` (R323; V: log entry
9). -/
def Obligations.DecimalAdjust : Prop :=
  ∀ s : State,
    let low := s.cc.h = true ∨ 9 < s.a.toNat % 16
    let high := s.cc.c = true ∨ 9 < s.a.toNat / 16 ∨ (8 < s.a.toNat / 16 ∧ 9 < s.a.toNat % 16)
    let res := BitVec.ofNat 8 (s.a.toNat + (if low then 6 else 0) + (if high then 96 else 0))
    let v := (drawFlag s.cc.v s).1
    let r := (drawFlag s.cc.v s).2
    exec .daa s = .next { r with
      a := res, ticks := s.ticks + 2
      cc := { s.cc with n := res.getLsbD 7, z := decide (res = 0), v := v, c := decide high } }

/-- DAA after ADDA or ADCA of two numbers of two decimal digits: A holds the two low digits of the decimal sum and C is
its carry (R300, R323). -/
def Obligations.DecimalAddition : Prop :=
  ∀ (s t r : State) (m : Byte),
    let value := fun v : Byte => v.toNat / 16 * 10 + v.toNat % 16
    let decimal := fun v : Byte => v.toNat / 16 ≤ 9 ∧ v.toNat % 16 ≤ 9
    decimal s.a → decimal m →
    (exec (.adda (.imm m)) s = .next t → exec .daa t = .next r →
      decimal r.a ∧ value r.a + (if r.cc.c then 100 else 0) = value s.a + value m) ∧
    (exec (.adca (.imm m)) s = .next t → exec .daa t = .next r →
      decimal r.a ∧ value r.a + (if r.cc.c then 100 else 0) = value s.a + value m + s.cc.c.toNat)

/-- ADDD, SUBD and the 16-bit compares: sum or difference mod 65536; C the carry or borrow, V the signed overflow, H
kept; a compare of a register the operand's auto form moved sees the moved value (R229, R400-R409). -/
def Obligations.Arithmetic16 : Prop :=
  ∀ (s : State) (o : Operand16),
    let m := (operand16 o s).1
    let r := afterOperand16 o s
    let sum := BitVec.ofNat 16 (s.d.toNat + m.toNat)
    let diff := fun w : Word => BitVec.ofInt 16 ((w.toNat : Int) - m.toNat)
    let cc := fun w : Word => { s.cc with
      n := (diff w).getLsbD 15, z := decide (w = m)
      v := decide (w.toInt - m.toInt < -32768 ∨ 32767 < w.toInt - m.toInt), c := decide (w.toNat < m.toNat) }
    exec (.addd o) s = .next { r with
      a := hiByte sum, b := loByte sum, ticks := s.ticks + ticks16 4 o
      cc := { s.cc with
        n := sum.getLsbD 15, z := decide (sum = 0)
        v := decide (s.d.toInt + m.toInt < -32768 ∨ 32767 < s.d.toInt + m.toInt)
        c := decide (65535 < s.d.toNat + m.toNat) } } ∧
    exec (.subd o) s = .next { r with
      a := hiByte (diff s.d), b := loByte (diff s.d), cc := cc s.d, ticks := s.ticks + ticks16 4 o } ∧
    exec (.cmpd o) s = .next { r with cc := cc s.d, ticks := s.ticks + ticks16 5 o } ∧
    exec (.cmpx o) s = .next { r with cc := cc r.x, ticks := s.ticks + ticks16 4 o } ∧
    exec (.cmpy o) s = .next { r with cc := cc r.y, ticks := s.ticks + ticks16 5 o } ∧
    exec (.cmpu o) s = .next { r with cc := cc r.u, ticks := s.ticks + ticks16 5 o } ∧
    exec (.cmps o) s = .next { r with cc := cc r.sp, ticks := s.ticks + ticks16 5 o }

/-! ### Unary operations -/

/-- The unary operations on A, and the same on B: result and flags of each law, H per `UNDEF_FLAGS` for NEG, ASR and
ASL; TST writes no register (R350-R353, R355-R357, R359-R361 and so on to R391-R393; H: log entry 9). -/
def Obligations.UnaryOnAccumulators : Prop :=
  ∀ s : State,
    let h := (drawFlag s.cc.h s).1
    let r := (drawFlag s.cc.h s).2
    let n := s.ticks + 2
    let nz := fun v : Byte => { s.cc with n := v.getLsbD 7, z := decide (v = 0) }
    let neg := fun v : Byte => BitVec.ofNat 8 (256 - v.toNat)
    let negCC := fun v : Byte => { nz (neg v) with h := h, v := decide (v = 0x80), c := decide (v ≠ 0) }
    let com := fun v : Byte => BitVec.ofNat 8 (255 - v.toNat)
    let comCC := fun v : Byte => { nz (com v) with v := false, c := true }
    let lsr := fun v : Byte => BitVec.ofNat 8 (v.toNat / 2)
    let lsrCC := fun v : Byte => { nz (lsr v) with n := false, c := v.getLsbD 0 }
    let ror := fun v : Byte => BitVec.ofNat 8 (s.cc.c.toNat * 128 + v.toNat / 2)
    let rorCC := fun v : Byte => { nz (ror v) with c := v.getLsbD 0 }
    let asr := fun v : Byte => BitVec.ofInt 8 (v.toInt / 2)
    let asrCC := fun v : Byte => { nz (asr v) with h := h, c := v.getLsbD 0 }
    let asl := fun v : Byte => BitVec.ofNat 8 (v.toNat * 2)
    let aslCC := fun v : Byte => { nz (asl v) with h := h, v := v.getLsbD 7 != v.getLsbD 6, c := v.getLsbD 7 }
    let rol := fun v : Byte => BitVec.ofNat 8 (v.toNat * 2 + s.cc.c.toNat)
    let rolCC := fun v : Byte => { nz (rol v) with v := v.getLsbD 7 != v.getLsbD 6, c := v.getLsbD 7 }
    let dec := fun v : Byte => BitVec.ofInt 8 (v.toNat - 1)
    let decCC := fun v : Byte => { nz (dec v) with v := decide (v = 0x80) }
    let inc := fun v : Byte => BitVec.ofNat 8 (v.toNat + 1)
    let incCC := fun v : Byte => { nz (inc v) with v := decide (v = 0x7F) }
    let clrCC := { s.cc with n := false, z := true, v := false, c := false }
    (exec .nega s = .next { r with a := neg s.a, cc := negCC s.a, ticks := n } ∧
      exec .coma s = .next { s with a := com s.a, cc := comCC s.a, ticks := n } ∧
      exec .lsra s = .next { s with a := lsr s.a, cc := lsrCC s.a, ticks := n } ∧
      exec .rora s = .next { s with a := ror s.a, cc := rorCC s.a, ticks := n } ∧
      exec .asra s = .next { r with a := asr s.a, cc := asrCC s.a, ticks := n } ∧
      exec .asla s = .next { r with a := asl s.a, cc := aslCC s.a, ticks := n } ∧
      exec .rola s = .next { s with a := rol s.a, cc := rolCC s.a, ticks := n } ∧
      exec .deca s = .next { s with a := dec s.a, cc := decCC s.a, ticks := n } ∧
      exec .inca s = .next { s with a := inc s.a, cc := incCC s.a, ticks := n } ∧
      exec .tsta s = .next { s with cc := { nz s.a with v := false }, ticks := n } ∧
      exec .clra s = .next { s with a := 0, cc := clrCC, ticks := n }) ∧
    (exec .negb s = .next { r with b := neg s.b, cc := negCC s.b, ticks := n } ∧
      exec .comb s = .next { s with b := com s.b, cc := comCC s.b, ticks := n } ∧
      exec .lsrb s = .next { s with b := lsr s.b, cc := lsrCC s.b, ticks := n } ∧
      exec .rorb s = .next { s with b := ror s.b, cc := rorCC s.b, ticks := n } ∧
      exec .asrb s = .next { r with b := asr s.b, cc := asrCC s.b, ticks := n } ∧
      exec .aslb s = .next { r with b := asl s.b, cc := aslCC s.b, ticks := n } ∧
      exec .rolb s = .next { s with b := rol s.b, cc := rolCC s.b, ticks := n } ∧
      exec .decb s = .next { s with b := dec s.b, cc := decCC s.b, ticks := n } ∧
      exec .incb s = .next { s with b := inc s.b, cc := incCC s.b, ticks := n } ∧
      exec .tstb s = .next { s with cc := { nz s.b with v := false }, ticks := n } ∧
      exec .clrb s = .next { s with b := 0, cc := clrCC, ticks := n })

/-- The unary operations on memory: the byte read once at the effective address, the result written at the same address,
the flags of the accumulator forms; TST does not write, CLR does not read (R350, R354, R358, R362, R366, R370, R374,
R378, R382, R386, R390, R394; H: log entry 9). -/
def Obligations.UnaryOnMemory : Prop :=
  ∀ (s : State) (m : MemOperand),
    let ea := (effectiveAddress m s).1
    let v := (operand8 (.mem m) s).1
    let q := afterOperand8 (.mem m) s
    let h := (drawFlag s.cc.h q).1
    let r := (drawFlag s.cc.h q).2
    let n := s.ticks + memTicks 6 m
    let nz := fun v : Byte => { s.cc with n := v.getLsbD 7, z := decide (v = 0) }
    let neg := BitVec.ofNat 8 (256 - v.toNat)
    let com := BitVec.ofNat 8 (255 - v.toNat)
    let lsr := BitVec.ofNat 8 (v.toNat / 2)
    let ror := BitVec.ofNat 8 (s.cc.c.toNat * 128 + v.toNat / 2)
    let asr := BitVec.ofInt 8 (v.toInt / 2)
    let asl := BitVec.ofNat 8 (v.toNat * 2)
    let rol := BitVec.ofNat 8 (v.toNat * 2 + s.cc.c.toNat)
    let dec := BitVec.ofInt 8 (v.toNat - 1)
    let inc := BitVec.ofNat 8 (v.toNat + 1)
    exec (.neg m) s = .next { writeByte ea neg r with
      cc := { nz neg with h := h, v := decide (v = 0x80), c := decide (v ≠ 0) }, ticks := n } ∧
    exec (.com m) s = .next { writeByte ea com q with cc := { nz com with v := false, c := true }, ticks := n } ∧
    exec (.lsr m) s = .next { writeByte ea lsr q with cc := { nz lsr with n := false, c := v.getLsbD 0 }, ticks := n } ∧
    exec (.ror m) s = .next { writeByte ea ror q with cc := { nz ror with c := v.getLsbD 0 }, ticks := n } ∧
    exec (.asr m) s = .next { writeByte ea asr r with cc := { nz asr with h := h, c := v.getLsbD 0 }, ticks := n } ∧
    exec (.asl m) s = .next { writeByte ea asl r with
      cc := { nz asl with h := h, v := v.getLsbD 7 != v.getLsbD 6, c := v.getLsbD 7 }, ticks := n } ∧
    exec (.rol m) s = .next { writeByte ea rol q with
      cc := { nz rol with v := v.getLsbD 7 != v.getLsbD 6, c := v.getLsbD 7 }, ticks := n } ∧
    exec (.dec m) s = .next { writeByte ea dec q with cc := { nz dec with v := decide (v = 0x80) }, ticks := n } ∧
    exec (.inc m) s = .next { writeByte ea inc q with cc := { nz inc with v := decide (v = 0x7F) }, ticks := n } ∧
    exec (.tst m) s = .next { q with cc := { nz v with v := false }, ticks := n } ∧
    exec (.clr m) s = .next { writeByte ea 0 (afterAddress m s) with
      cc := { s.cc with n := false, z := true, v := false, c := false }, ticks := n }

/-- The frame of STA, STB, STD, STX, STY, STU, STS and of the memory forms of NEG, COM, LSR, ROR, ASR, ASL, ROL, DEC, INC,
CLR and TST: every register but the index register of an auto form, every flag but those the spec names, every byte of
RAM but the stored ones (none for TST), and, away from its registers, the MMU are as before (R111, R250, R258-R264,
R350). -/
def Obligations.StoringFrames : Prop :=
  ∀ (s t : State) (m : MemOperand),
    let ea := (effectiveAddress m s).1
    ((exec (.sta m) s = .next t ∨ exec (.stb m) s = .next t) →
      t = { storeFrame (resolvedFrame (indexDelta m) s t) t with
        cc := { s.cc with n := t.cc.n, z := t.cc.z, v := false }, ticks := t.ticks } ∧
      (isMmuRegister ea = false → t.mmu = s.mmu) ∧
      ∀ pa, s.ramAt ea ≠ some pa → t.ram.read pa = s.ram.read pa) ∧
    ((exec (.std m) s = .next t ∨ exec (.stx m) s = .next t ∨ exec (.sty m) s = .next t ∨ exec (.stu m) s = .next t ∨
        exec (.sts m) s = .next t) →
      t = { storeFrame (resolvedFrame (indexDelta m) s t) t with
        cc := { s.cc with n := t.cc.n, z := t.cc.z, v := false }, ticks := t.ticks } ∧
      (isMmuRegister ea = false → isMmuRegister (ea + 1) = false → t.mmu = s.mmu) ∧
      ∀ pa, s.ramAt ea ≠ some pa → s.ramAt (ea + 1) ≠ some pa → t.ram.read pa = s.ram.read pa) ∧
    (∀ i ∈ ([.neg m, .com m, .lsr m, .ror m, .asr m, .asl m, .rol m, .dec m, .inc m, .clr m, .tst m] : List Instr),
      exec i s = .next t →
      t = { storeFrame (resolvedFrame (indexDelta m) s t) t with
        cc := { t.cc with e := s.cc.e, f := s.cc.f, i := s.cc.i }, ticks := t.ticks } ∧
      (i ∉ ([.neg m, .asr m, .asl m] : List Instr) → t.cc.h = s.cc.h) ∧
      (i ∈ ([.lsr m, .ror m, .asr m] : List Instr) → t.cc.v = s.cc.v) ∧
      (i ∈ ([.dec m, .inc m, .tst m] : List Instr) → t.cc.c = s.cc.c) ∧
      (isMmuRegister ea = false → t.mmu = s.mmu) ∧
      (∀ pa, s.ramAt ea ≠ some pa → t.ram.read pa = s.ram.read pa) ∧
      (i = .tst m → t.ram = s.ram ∧ t.mmu = s.mmu))

/-! ### Branches, jumps and subroutines -/

/-- The short branches: PC moves by the signed displacement from the next instruction where the predicate of R450 holds;
three ticks either way; no flag and nothing else changes (R450, R451, R453-R468). -/
def Obligations.ShortBranches : Prop :=
  ∀ (s : State) (o : Byte),
    let branch := fun taken : Bool => Host.Outcome.next (φ := Fault) (ρ := Refusal)
      { s with pc := if taken then BitVec.ofInt 16 (s.pc.toNat + o.toInt) else s.pc, ticks := s.ticks + 3 }
    let cc := s.cc
    exec (.bra o) s = branch true ∧
    exec (.brn o) s = branch false ∧
    exec (.bhi o) s = branch (decide (cc.c = false ∧ cc.z = false)) ∧
    exec (.bls o) s = branch (decide (cc.c = true ∨ cc.z = true)) ∧
    exec (.bhs o) s = branch (decide (cc.c = false)) ∧
    exec (.blo o) s = branch (decide (cc.c = true)) ∧
    exec (.bne o) s = branch (decide (cc.z = false)) ∧
    exec (.beq o) s = branch (decide (cc.z = true)) ∧
    exec (.bvc o) s = branch (decide (cc.v = false)) ∧
    exec (.bvs o) s = branch (decide (cc.v = true)) ∧
    exec (.bpl o) s = branch (decide (cc.n = false)) ∧
    exec (.bmi o) s = branch (decide (cc.n = true)) ∧
    exec (.bge o) s = branch (decide (cc.n = cc.v)) ∧
    exec (.blt o) s = branch (decide (cc.n ≠ cc.v)) ∧
    exec (.bgt o) s = branch (decide (cc.z = false ∧ cc.n = cc.v)) ∧
    exec (.ble o) s = branch (decide (cc.z = true ∨ cc.n ≠ cc.v))

/-- The long branches: as the short ones with a 16-bit displacement, one tick more where a conditional one is taken
(R450, R452, R469-R484). -/
def Obligations.LongBranches : Prop :=
  ∀ (s : State) (o : Word),
    let branch := fun taken : Bool => Host.Outcome.next (φ := Fault) (ρ := Refusal)
      { s with
        pc := if taken then BitVec.ofInt 16 (s.pc.toNat + o.toInt) else s.pc
        ticks := s.ticks + if taken then 6 else 5 }
    let cc := s.cc
    exec (.lbra o) s = .next { s with pc := BitVec.ofInt 16 (s.pc.toNat + o.toInt), ticks := s.ticks + 5 } ∧
    exec (.lbrn o) s = branch false ∧
    exec (.lbhi o) s = branch (decide (cc.c = false ∧ cc.z = false)) ∧
    exec (.lbls o) s = branch (decide (cc.c = true ∨ cc.z = true)) ∧
    exec (.lbhs o) s = branch (decide (cc.c = false)) ∧
    exec (.lblo o) s = branch (decide (cc.c = true)) ∧
    exec (.lbne o) s = branch (decide (cc.z = false)) ∧
    exec (.lbeq o) s = branch (decide (cc.z = true)) ∧
    exec (.lbvc o) s = branch (decide (cc.v = false)) ∧
    exec (.lbvs o) s = branch (decide (cc.v = true)) ∧
    exec (.lbpl o) s = branch (decide (cc.n = false)) ∧
    exec (.lbmi o) s = branch (decide (cc.n = true)) ∧
    exec (.lbge o) s = branch (decide (cc.n = cc.v)) ∧
    exec (.lblt o) s = branch (decide (cc.n ≠ cc.v)) ∧
    exec (.lbgt o) s = branch (decide (cc.z = false ∧ cc.n = cc.v)) ∧
    exec (.lble o) s = branch (decide (cc.z = true ∨ cc.n ≠ cc.v))

/-- What the comparing branches mean: after CMPA with m, or CMPX with w, each is taken exactly where the register and
the operand compare so, unsigned or signed (R301, R401, R450). -/
def Obligations.BranchesAfterCompare : Prop :=
  ∀ (s t : State) (o : Byte),
    let goes := fun (i : Instr) (taken : Prop) => ∃ r, exec i t = .next r ∧
      (taken → r.pc = t.pc + o.signExtend 16) ∧ (¬ taken → r.pc = t.pc)
    (∀ m : Byte, exec (.cmpa (.imm m)) s = .next t →
      goes (.bhi o) (m.toNat < s.a.toNat) ∧ goes (.bls o) (s.a.toNat ≤ m.toNat) ∧
      goes (.bhs o) (m.toNat ≤ s.a.toNat) ∧ goes (.blo o) (s.a.toNat < m.toNat) ∧
      goes (.bne o) (s.a ≠ m) ∧ goes (.beq o) (s.a = m) ∧
      goes (.bge o) (m.toInt ≤ s.a.toInt) ∧ goes (.blt o) (s.a.toInt < m.toInt) ∧
      goes (.bgt o) (m.toInt < s.a.toInt) ∧ goes (.ble o) (s.a.toInt ≤ m.toInt)) ∧
    (∀ w : Word, exec (.cmpx (.imm w)) s = .next t →
      goes (.bhi o) (w.toNat < s.x.toNat) ∧ goes (.bls o) (s.x.toNat ≤ w.toNat) ∧
      goes (.bhs o) (w.toNat ≤ s.x.toNat) ∧ goes (.blo o) (s.x.toNat < w.toNat) ∧
      goes (.bne o) (s.x ≠ w) ∧ goes (.beq o) (s.x = w) ∧
      goes (.bge o) (w.toInt ≤ s.x.toInt) ∧ goes (.blt o) (s.x.toInt < w.toInt) ∧
      goes (.bgt o) (w.toInt < s.x.toInt) ∧ goes (.ble o) (s.x.toInt ≤ w.toInt))

/-- BSR, LBSR, JSR and JMP: the target computed first, the return address pushed on S high byte at the lower address
(JMP pushes nothing), then PC at the target; RTS takes PC
from the word at S; no flag changes (R485-R489, R500, R501). -/
def Obligations.CallsJumpsAndReturn : Prop :=
  ∀ s : State,
    (∀ o : Byte, ∃ t, exec (.bsr o) s = .next t ∧
      t = { storeFrame (busFrame s t) t with
        sp := s.sp - 2, pc := BitVec.ofInt 16 (s.pc.toNat + o.toInt), ticks := s.ticks + 7 } ∧
      storesRun (s.sp - 2) [hiByte s.pc, loByte s.pc] s t) ∧
    (∀ o : Word, ∃ t, exec (.lbsr o) s = .next t ∧
      t = { storeFrame (busFrame s t) t with
        sp := s.sp - 2, pc := BitVec.ofInt 16 (s.pc.toNat + o.toInt), ticks := s.ticks + 9 } ∧
      storesRun (s.sp - 2) [hiByte s.pc, loByte s.pc] s t) ∧
    (∀ m : MemOperand,
      let r := afterAddress m s
      ∃ t, exec (.jsr m) s = .next t ∧
      t = { storeFrame (busFrame r t) t with
        sp := r.sp - 2, pc := (effectiveAddress m s).1, ticks := s.ticks + memTicks 7 m } ∧
      storesRun (r.sp - 2) [hiByte s.pc, loByte s.pc] r t) ∧
    (∀ m : MemOperand, exec (.jmp m) s =
      .next { afterAddress m s with pc := (effectiveAddress m s).1, ticks := s.ticks + memTicks 3 m }) ∧
    exec .rts s = .next { busFrame s (readWord s.sp s).2 with
      pc := (readWord s.sp s).1, sp := s.sp + 2, ticks := s.ticks + 5 }

/-! ### Stack and transfer -/

/-- PSHS and PSHU, every mask: the selected registers on the stack, PC highest and CC lowest, the stack pointer down by
the bytes moved, which is also the tick surcharge; no register and no flag else (R500, R503, R504, R506). -/
def Obligations.Push : Prop :=
  ∀ (s : State) (m : Byte),
    let n := bytesMoved m
    (∃ t, exec (.pshs m) s = .next t ∧
      t = { storeFrame (busFrame s t) t with sp := s.sp - BitVec.ofNat 16 n, ticks := s.ticks + (5 + n) } ∧
      (pushedBytes .s m s).length = n ∧ storesRun (s.sp - BitVec.ofNat 16 n) (pushedBytes .s m s) s t) ∧
    (∃ t, exec (.pshu m) s = .next t ∧
      t = { storeFrame (busFrame s t) t with u := s.u - BitVec.ofNat 16 n, ticks := s.ticks + (5 + n) } ∧
      (pushedBytes .u m s).length = n ∧ storesRun (s.u - BitVec.ofNat 16 n) (pushedBytes .u m s) s t)

/-- PULS and PULU, every mask: the stack pointer up by the bytes moved, no register changed that the mask does not
select; from plain memory, each selected register holds the bytes at its place above the stack pointer, CC lowest and
PC highest (R501, R503, R505, R507). -/
def Obligations.Pull : Prop :=
  ∀ (s : State) (m : Byte),
    let n := bytesMoved m
    let below := fun k : Nat => bytesMoved (m &&& BitVec.ofNat 8 (2 ^ k - 1))
    let pick := fun (t : State) => { s with
      cc := if m.getLsbD 0 then t.cc else s.cc, a := if m.getLsbD 1 then t.a else s.a
      b := if m.getLsbD 2 then t.b else s.b, dp := if m.getLsbD 3 then t.dp else s.dp
      x := if m.getLsbD 4 then t.x else s.x, y := if m.getLsbD 5 then t.y else s.y
      pc := if m.getLsbD 7 then t.pc else s.pc, ticks := s.ticks + (5 + n) }
    let pulled := fun (base : Word) => { s with
      cc := CC.ofByte (s.byteAt base (below 0)), a := s.byteAt base (below 1), b := s.byteAt base (below 2)
      dp := s.byteAt base (below 3), x := word (s.byteAt base (below 4)) (s.byteAt base (below 4 + 1))
      y := word (s.byteAt base (below 5)) (s.byteAt base (below 5 + 1))
      pc := word (s.byteAt base (below 7)) (s.byteAt base (below 7 + 1)) }
    let other := fun (base : Word) => word (s.byteAt base (below 6)) (s.byteAt base (below 6 + 1))
    (∃ t, exec (.puls m) s = .next t ∧ t = { busFrame (pick t) t with
      sp := s.sp + BitVec.ofNat 16 n, u := if m.getLsbD 6 then t.u else s.u }) ∧
    (s.plainRun s.sp n = true → exec (.puls m) s = .next { pick (pulled s.sp) with
      sp := s.sp + BitVec.ofNat 16 n, u := if m.getLsbD 6 then other s.sp else s.u }) ∧
    (∃ t, exec (.pulu m) s = .next t ∧ t = { busFrame (pick t) t with
      u := s.u + BitVec.ofNat 16 n, sp := if m.getLsbD 6 then t.sp else s.sp }) ∧
    (s.plainRun s.u n = true → exec (.pulu m) s = .next { pick (pulled s.u) with
      u := s.u + BitVec.ofNat 16 n, sp := if m.getLsbD 6 then other s.u else s.sp })

/-- PSHS of a mask, then PULS of the same mask, with the stack in RAM: every register is as before, and so for PSHU and
PULU (R501, R505). -/
def Obligations.PushThenPull : Prop :=
  ∀ (s : State) (m : Byte),
    let n := bytesMoved m
    (s.ramRun (s.sp - BitVec.ofNat 16 n) n = true → ∃ t r, exec (.pshs m) s = .next t ∧ exec (.puls m) t = .next r ∧
      r = { s with ram := t.ram, ticks := r.ticks }) ∧
    (s.ramRun (s.u - BitVec.ofNat 16 n) n = true → ∃ t r, exec (.pshu m) s = .next t ∧ exec (.pulu m) t = .next r ∧
      r = { s with ram := t.ram, ticks := r.ticks })

/-- TFR and EXG of a defined pair: the destination takes the source, or the two exchange, and a register that shares no
storage with a destination keeps its value; an undefined pair is a malformed operand (R508-R511; that `exec` answers the error, and with
which state: log entries 11, 17). -/
def Obligations.TransferAndExchange : Prop :=
  ∀ (s : State) (r1 r2 : Reg),
    (r1.isWord = r2.isWord →
      (∃ t, exec (.tfr r1 r2) s = .next t ∧ t.reg r2 = s.reg r1 ∧
        (∀ q, sharesStorage q r2 = false → t.reg q = s.reg q) ∧
        t = { s with
          a := t.a, b := t.b, x := t.x, y := t.y, u := t.u, sp := t.sp, pc := t.pc, dp := t.dp, cc := t.cc
          ticks := s.ticks + 6 }) ∧
      (∃ t, exec (.exg r1 r2) s = .next t ∧ t.reg r1 = s.reg r2 ∧ t.reg r2 = s.reg r1 ∧
        (∀ q, sharesStorage q r1 = false → sharesStorage q r2 = false → t.reg q = s.reg q) ∧
        t = { s with
          a := t.a, b := t.b, x := t.x, y := t.y, u := t.u, sp := t.sp, pc := t.pc, dp := t.dp, cc := t.cc
          ticks := s.ticks + 8 })) ∧
    (r1.isWord ≠ r2.isWord →
      exec (.tfr r1 r2) s = .fault (.malformedOperand (pairByte r1 r2) s) ∧
      exec (.exg r1 r2) s = .fault (.malformedOperand (pairByte r1 r2) s))

/-! ### Exceptions and waits -/

/-- SWI, SWI2 and SWI3: the entire state pushed with E set, PC from the vector; SWI sets I and F, the others leave them
(R502, R551-R553, R611). -/
def Obligations.SoftwareInterrupts : Prop :=
  ∀ s : State,
    let bytes := entireBytes { s.cc with e := true } s
    (∃ t, exec .swi s = .next t ∧ storesRun (s.sp - 12) bytes s t ∧
      t = { storeFrame (busFrame s t) t with
        sp := s.sp - 12, cc := { s.cc with e := true, i := true, f := true }, pc := s.vector 0xFFFA
        ticks := s.ticks + 19 }) ∧
    (∃ t, exec .swi2 s = .next t ∧ storesRun (s.sp - 12) bytes s t ∧
      t = { storeFrame (busFrame s t) t with
        sp := s.sp - 12, cc := { s.cc with e := true }, pc := s.vector 0xFFF4, ticks := s.ticks + 20 }) ∧
    (∃ t, exec .swi3 s = .next t ∧ storesRun (s.sp - 12) bytes s t ∧
      t = { storeFrame (busFrame s t) t with
        sp := s.sp - 12, cc := { s.cc with e := true }, pc := s.vector 0xFFF2, ticks := s.ticks + 20 })

/-- RTI: CC from the byte at S, then, where the pulled E is 1, the entire frame and fifteen ticks, else PC alone and six
(R554, R626); and what it leaves unchanged wherever the stack lies. -/
def Obligations.ReturnFromInterrupt : Prop :=
  ∀ s : State,
    let at' := s.byteAt s.sp
    (∃ t, exec .rti s = .next t ∧ t = { busFrame s t with
      a := if t.cc.e then t.a else s.a, b := if t.cc.e then t.b else s.b, dp := if t.cc.e then t.dp else s.dp
      x := if t.cc.e then t.x else s.x, y := if t.cc.e then t.y else s.y, u := if t.cc.e then t.u else s.u
      cc := t.cc, pc := t.pc
      sp := s.sp + (if t.cc.e then 12 else 3), ticks := s.ticks + (if t.cc.e then 15 else 6) }) ∧
    (s.plainRun s.sp 12 = true → (at' 0).getLsbD 7 = true → exec .rti s = .next { s with
      cc := CC.ofByte (at' 0), a := at' 1, b := at' 2, dp := at' 3, x := word (at' 4) (at' 5), y := word (at' 6) (at' 7)
      u := word (at' 8) (at' 9), pc := word (at' 10) (at' 11), sp := s.sp + 12, ticks := s.ticks + 15 }) ∧
    (s.plainRun s.sp 3 = true → (at' 0).getLsbD 7 = false → exec .rti s = .next { s with
      cc := CC.ofByte (at' 0), pc := word (at' 1) (at' 2), sp := s.sp + 3, ticks := s.ticks + 6 })

/-- A software interrupt and the RTI of its handler, with the stack in RAM: every register is as before but E, which the
frame holds set (R551-R554). -/
def Obligations.InterruptThenReturn : Prop :=
  ∀ s : State, s.ramRun (s.sp - 12) 12 = true → ∀ i ∈ ([.swi, .swi2, .swi3] : List Instr),
    ∃ t r, exec i s = .next t ∧ exec .rti t = .next r ∧
      r = { s with ram := t.ram, cc := { s.cc with e := true }, ticks := t.ticks + 15 }

/-- CWAI, SYNC and NOP: CWAI clears CC bits, sets E, pushes the entire state and waits; SYNC waits with nothing pushed;
NOP changes nothing (R550, R555, R556). -/
def Obligations.WaitsAndNop : Prop :=
  ∀ s : State,
    (∀ m : Byte,
      let cc := CC.ofByte (s.cc.toByte &&& m ||| 0x80)
      ∃ t, exec (.cwai m) s = .next t ∧ storesRun (s.sp - 12) (entireBytes cc s) s t ∧
      t = { storeFrame (busFrame s t) t with sp := s.sp - 12, cc := cc, cwaiWait := true, ticks := s.ticks + 20 }) ∧
    exec .sync s = .next { s with syncWait := true, ticks := s.ticks + 4 } ∧
    exec .nop s = .next { s with ticks := s.ticks + 2 }
end

