-- ==== Sys2Proof/Laws/Memory.lean ====
section
/-! SUPPORT. Reading and writing an array of bytes: a read after a write, and the canonical form kept. The first two
hold of every list, canonical or not. -/

namespace Sys2Proof.Machine

@[simp] theorem Memory.read_nil (a : Nat) : Memory.read [] a = Memory.unlisted := rfl

theorem Memory.read_cons (k : Nat) (v : Byte) (rest : Memory) (a : Nat) :
    Memory.read ((k, v) :: rest) a = if k = a then v else Memory.read rest a := rfl

theorem Memory.read_filter_same (m : Memory) (a : Nat) :
    Memory.read (m.filter fun c => c.1 != a) a = Memory.unlisted := by
  induction m with
  | nil => rfl
  | cons c rest ih =>
    obtain ⟨k, w⟩ := c
    by_cases h : k = a
    · simpa [List.filter_cons, h] using ih
    · simpa [List.filter_cons, h, Memory.read_cons] using ih

theorem Memory.read_filter_other (m : Memory) (a b : Nat) (hb : b ≠ a) :
    Memory.read (m.filter fun c => c.1 != a) b = Memory.read m b := by
  induction m with
  | nil => rfl
  | cons c rest ih =>
    obtain ⟨k, w⟩ := c
    by_cases h : k = a
    · have : k ≠ b := fun e => hb (e ▸ h)
      simpa [List.filter_cons, h, Memory.read_cons, Ne.symm hb] using ih
    · by_cases h2 : k = b <;> simp [List.filter_cons, h, Memory.read_cons, h2, ih]
      simp [Memory.read_cons, hb]

theorem Memory.read_insert (m : Memory) (a b : Nat) (v : Byte) :
    Memory.read (Memory.insert a v m) b = if a = b then v else Memory.read m b := by
  induction m with
  | nil => rfl
  | cons c rest ih =>
    obtain ⟨k, w⟩ := c
    simp only [Memory.insert]
    split
    · rw [Memory.read_cons, Memory.read_cons, ih]
      by_cases hk : k = b
      · have : a ≠ b := by omega
        simp [hk, this]
      · simp [hk]
    · split
      · simp only [Memory.read_cons]
        by_cases hk : a = b
        · simp [hk]
        · have : k ≠ b := by omega
          simp [hk, this]
      · simp [Memory.read_cons]

/-- A read after a write gives the byte written at its address and leaves every other address alone (R108, R140). -/
theorem Memory.read_write (m : Memory) (a b : Nat) (v : Byte) :
    Memory.read (Memory.write m a v) b = if a = b then v else Memory.read m b := by
  unfold Memory.write
  by_cases hv : v = Memory.unlisted
  · rw [if_pos hv]
    by_cases hab : a = b
    · subst hab
      rw [if_pos rfl, hv, Memory.read_filter_same]
    · rw [if_neg hab, Memory.read_filter_other m a b (Ne.symm hab)]
  · rw [if_neg hv, Memory.read_insert]

theorem Memory.wf_mono (lo lo' hi : Nat) (m : Memory) (h : Memory.wf lo hi m = true) (hlo : lo' ≤ lo) :
    Memory.wf lo' hi m = true := by
  cases m with
  | nil => rfl
  | cons c rest =>
    obtain ⟨k, w⟩ := c
    simp only [Memory.wf, Bool.and_eq_true, decide_eq_true_eq] at h ⊢
    exact ⟨⟨⟨by omega, h.1.1.2⟩, h.1.2⟩, h.2⟩

theorem Memory.wf_filter (lo hi : Nat) (m : Memory) (p : Host.Cell → Bool) (h : Memory.wf lo hi m = true) :
    Memory.wf lo hi (m.filter p) = true := by
  induction m generalizing lo with
  | nil => rfl
  | cons c rest ih =>
    obtain ⟨k, w⟩ := c
    simp only [Memory.wf, Bool.and_eq_true, decide_eq_true_eq] at h
    have hrest := ih (k + 1) h.2
    by_cases hp : p (k, w)
    · simpa [List.filter_cons, hp, Memory.wf, h.1.1.1, h.1.1.2, h.1.2] using hrest
    · simpa [List.filter_cons, hp] using Memory.wf_mono (k + 1) lo hi _ hrest (by omega)

theorem Memory.wf_insert (lo hi a : Nat) (v : Byte) (m : Memory) (h : Memory.wf lo hi m = true)
    (hlo : lo ≤ a) (hhi : a < hi) (hv : v ≠ Memory.unlisted) : Memory.wf lo hi (Memory.insert a v m) = true := by
  induction m generalizing lo with
  | nil => simp [Memory.insert, Memory.wf, hlo, hhi, hv]
  | cons c rest ih =>
    obtain ⟨k, w⟩ := c
    simp only [Memory.wf, Bool.and_eq_true, decide_eq_true_eq] at h
    simp only [Memory.insert]
    split
    · have := ih (k + 1) h.2 (by omega)
      simp [Memory.wf, h.1.1.1, h.1.1.2, h.1.2, this]
    · split
      · next hk => subst hk; simp [Memory.wf, hlo, hhi, hv, h.2]
      · have hk : a + 1 ≤ k := by omega
        simp [Memory.wf, hlo, hhi, hv, hk, h.1.1.2, h.1.2, h.2]

/-- A write keeps the canonical form. -/
theorem Memory.wf_write (hi a : Nat) (v : Byte) (m : Memory) (h : Memory.wf 0 hi m = true) (ha : a < hi) :
    Memory.wf 0 hi (Memory.write m a v) = true := by
  unfold Memory.write
  split
  · exact Memory.wf_filter 0 hi m _ h
  · next hv => exact Memory.wf_insert 0 hi a v m h (Nat.zero_le a) ha hv

/-- The memory of the state after reset is in canonical form. -/
theorem State.reset_ram_wf : Memory.wf 0 Config.ramSize State.reset.ram = true := rfl

end Sys2Proof.Machine
end

