-- ==== Sys2Proof/Laws/State.lean ====
section
/-! SUPPORT. One lemma per field per update of the state, each true by rfl, so that no proof unfolds a record update. -/

namespace Sys2Proof.Machine

variable (s : State)

/-! `State.setA` -/

@[simp] theorem State.setA_a (v : Byte) : (s.setA v).a = v := rfl
@[simp] theorem State.setA_b (v : Byte) : (s.setA v).b = s.b := rfl
@[simp] theorem State.setA_x (v : Byte) : (s.setA v).x = s.x := rfl
@[simp] theorem State.setA_y (v : Byte) : (s.setA v).y = s.y := rfl
@[simp] theorem State.setA_u (v : Byte) : (s.setA v).u = s.u := rfl
@[simp] theorem State.setA_sp (v : Byte) : (s.setA v).sp = s.sp := rfl
@[simp] theorem State.setA_pc (v : Byte) : (s.setA v).pc = s.pc := rfl
@[simp] theorem State.setA_dp (v : Byte) : (s.setA v).dp = s.dp := rfl
@[simp] theorem State.setA_cc (v : Byte) : (s.setA v).cc = s.cc := rfl
@[simp] theorem State.setA_mmuEnabled (v : Byte) : (s.setA v).mmuEnabled = s.mmuEnabled := rfl
@[simp] theorem State.setA_executiveEnabled (v : Byte) : (s.setA v).executiveEnabled = s.executiveEnabled := rfl
@[simp] theorem State.setA_allRAM (v : Byte) : (s.setA v).allRAM = s.allRAM := rfl
@[simp] theorem State.setA_romMode (v : Byte) : (s.setA v).romMode = s.romMode := rfl
@[simp] theorem State.setA_parExec (v : Byte) : (s.setA v).parExec = s.parExec := rfl
@[simp] theorem State.setA_parTask (v : Byte) : (s.setA v).parTask = s.parTask := rfl
@[simp] theorem State.setA_ram (v : Byte) : (s.setA v).ram = s.ram := rfl
@[simp] theorem State.setA_sysRom (v : Byte) : (s.setA v).sysRom = s.sysRom := rfl
@[simp] theorem State.setA_cartRom (v : Byte) : (s.setA v).cartRom = s.cartRom := rfl
@[simp] theorem State.setA_cartSize (v : Byte) : (s.setA v).cartSize = s.cartSize := rfl
@[simp] theorem State.setA_irqLatch (v : Byte) : (s.setA v).irqLatch = s.irqLatch := rfl
@[simp] theorem State.setA_firqLatch (v : Byte) : (s.setA v).firqLatch = s.firqLatch := rfl
@[simp] theorem State.setA_nmiLatch (v : Byte) : (s.setA v).nmiLatch = s.nmiLatch := rfl
@[simp] theorem State.setA_cwaiWait (v : Byte) : (s.setA v).cwaiWait = s.cwaiWait := rfl
@[simp] theorem State.setA_syncWait (v : Byte) : (s.setA v).syncWait = s.syncWait := rfl
@[simp] theorem State.setA_cfg (v : Byte) : (s.setA v).cfg = s.cfg := rfl
@[simp] theorem State.setA_ticks (v : Byte) : (s.setA v).ticks = s.ticks := rfl
@[simp] theorem State.setA_draws (v : Byte) : (s.setA v).draws = s.draws := rfl
@[simp] theorem State.setA_deviceAnswers (v : Byte) : (s.setA v).deviceAnswers = s.deviceAnswers := rfl
@[simp] theorem State.setA_events (v : Byte) : (s.setA v).events = s.events := rfl

/-! `State.setB` -/

@[simp] theorem State.setB_a (v : Byte) : (s.setB v).a = s.a := rfl
@[simp] theorem State.setB_b (v : Byte) : (s.setB v).b = v := rfl
@[simp] theorem State.setB_x (v : Byte) : (s.setB v).x = s.x := rfl
@[simp] theorem State.setB_y (v : Byte) : (s.setB v).y = s.y := rfl
@[simp] theorem State.setB_u (v : Byte) : (s.setB v).u = s.u := rfl
@[simp] theorem State.setB_sp (v : Byte) : (s.setB v).sp = s.sp := rfl
@[simp] theorem State.setB_pc (v : Byte) : (s.setB v).pc = s.pc := rfl
@[simp] theorem State.setB_dp (v : Byte) : (s.setB v).dp = s.dp := rfl
@[simp] theorem State.setB_cc (v : Byte) : (s.setB v).cc = s.cc := rfl
@[simp] theorem State.setB_mmuEnabled (v : Byte) : (s.setB v).mmuEnabled = s.mmuEnabled := rfl
@[simp] theorem State.setB_executiveEnabled (v : Byte) : (s.setB v).executiveEnabled = s.executiveEnabled := rfl
@[simp] theorem State.setB_allRAM (v : Byte) : (s.setB v).allRAM = s.allRAM := rfl
@[simp] theorem State.setB_romMode (v : Byte) : (s.setB v).romMode = s.romMode := rfl
@[simp] theorem State.setB_parExec (v : Byte) : (s.setB v).parExec = s.parExec := rfl
@[simp] theorem State.setB_parTask (v : Byte) : (s.setB v).parTask = s.parTask := rfl
@[simp] theorem State.setB_ram (v : Byte) : (s.setB v).ram = s.ram := rfl
@[simp] theorem State.setB_sysRom (v : Byte) : (s.setB v).sysRom = s.sysRom := rfl
@[simp] theorem State.setB_cartRom (v : Byte) : (s.setB v).cartRom = s.cartRom := rfl
@[simp] theorem State.setB_cartSize (v : Byte) : (s.setB v).cartSize = s.cartSize := rfl
@[simp] theorem State.setB_irqLatch (v : Byte) : (s.setB v).irqLatch = s.irqLatch := rfl
@[simp] theorem State.setB_firqLatch (v : Byte) : (s.setB v).firqLatch = s.firqLatch := rfl
@[simp] theorem State.setB_nmiLatch (v : Byte) : (s.setB v).nmiLatch = s.nmiLatch := rfl
@[simp] theorem State.setB_cwaiWait (v : Byte) : (s.setB v).cwaiWait = s.cwaiWait := rfl
@[simp] theorem State.setB_syncWait (v : Byte) : (s.setB v).syncWait = s.syncWait := rfl
@[simp] theorem State.setB_cfg (v : Byte) : (s.setB v).cfg = s.cfg := rfl
@[simp] theorem State.setB_ticks (v : Byte) : (s.setB v).ticks = s.ticks := rfl
@[simp] theorem State.setB_draws (v : Byte) : (s.setB v).draws = s.draws := rfl
@[simp] theorem State.setB_deviceAnswers (v : Byte) : (s.setB v).deviceAnswers = s.deviceAnswers := rfl
@[simp] theorem State.setB_events (v : Byte) : (s.setB v).events = s.events := rfl

/-! `State.setX` -/

@[simp] theorem State.setX_a (v : Word) : (s.setX v).a = s.a := rfl
@[simp] theorem State.setX_b (v : Word) : (s.setX v).b = s.b := rfl
@[simp] theorem State.setX_x (v : Word) : (s.setX v).x = v := rfl
@[simp] theorem State.setX_y (v : Word) : (s.setX v).y = s.y := rfl
@[simp] theorem State.setX_u (v : Word) : (s.setX v).u = s.u := rfl
@[simp] theorem State.setX_sp (v : Word) : (s.setX v).sp = s.sp := rfl
@[simp] theorem State.setX_pc (v : Word) : (s.setX v).pc = s.pc := rfl
@[simp] theorem State.setX_dp (v : Word) : (s.setX v).dp = s.dp := rfl
@[simp] theorem State.setX_cc (v : Word) : (s.setX v).cc = s.cc := rfl
@[simp] theorem State.setX_mmuEnabled (v : Word) : (s.setX v).mmuEnabled = s.mmuEnabled := rfl
@[simp] theorem State.setX_executiveEnabled (v : Word) : (s.setX v).executiveEnabled = s.executiveEnabled := rfl
@[simp] theorem State.setX_allRAM (v : Word) : (s.setX v).allRAM = s.allRAM := rfl
@[simp] theorem State.setX_romMode (v : Word) : (s.setX v).romMode = s.romMode := rfl
@[simp] theorem State.setX_parExec (v : Word) : (s.setX v).parExec = s.parExec := rfl
@[simp] theorem State.setX_parTask (v : Word) : (s.setX v).parTask = s.parTask := rfl
@[simp] theorem State.setX_ram (v : Word) : (s.setX v).ram = s.ram := rfl
@[simp] theorem State.setX_sysRom (v : Word) : (s.setX v).sysRom = s.sysRom := rfl
@[simp] theorem State.setX_cartRom (v : Word) : (s.setX v).cartRom = s.cartRom := rfl
@[simp] theorem State.setX_cartSize (v : Word) : (s.setX v).cartSize = s.cartSize := rfl
@[simp] theorem State.setX_irqLatch (v : Word) : (s.setX v).irqLatch = s.irqLatch := rfl
@[simp] theorem State.setX_firqLatch (v : Word) : (s.setX v).firqLatch = s.firqLatch := rfl
@[simp] theorem State.setX_nmiLatch (v : Word) : (s.setX v).nmiLatch = s.nmiLatch := rfl
@[simp] theorem State.setX_cwaiWait (v : Word) : (s.setX v).cwaiWait = s.cwaiWait := rfl
@[simp] theorem State.setX_syncWait (v : Word) : (s.setX v).syncWait = s.syncWait := rfl
@[simp] theorem State.setX_cfg (v : Word) : (s.setX v).cfg = s.cfg := rfl
@[simp] theorem State.setX_ticks (v : Word) : (s.setX v).ticks = s.ticks := rfl
@[simp] theorem State.setX_draws (v : Word) : (s.setX v).draws = s.draws := rfl
@[simp] theorem State.setX_deviceAnswers (v : Word) : (s.setX v).deviceAnswers = s.deviceAnswers := rfl
@[simp] theorem State.setX_events (v : Word) : (s.setX v).events = s.events := rfl

/-! `State.setY` -/

@[simp] theorem State.setY_a (v : Word) : (s.setY v).a = s.a := rfl
@[simp] theorem State.setY_b (v : Word) : (s.setY v).b = s.b := rfl
@[simp] theorem State.setY_x (v : Word) : (s.setY v).x = s.x := rfl
@[simp] theorem State.setY_y (v : Word) : (s.setY v).y = v := rfl
@[simp] theorem State.setY_u (v : Word) : (s.setY v).u = s.u := rfl
@[simp] theorem State.setY_sp (v : Word) : (s.setY v).sp = s.sp := rfl
@[simp] theorem State.setY_pc (v : Word) : (s.setY v).pc = s.pc := rfl
@[simp] theorem State.setY_dp (v : Word) : (s.setY v).dp = s.dp := rfl
@[simp] theorem State.setY_cc (v : Word) : (s.setY v).cc = s.cc := rfl
@[simp] theorem State.setY_mmuEnabled (v : Word) : (s.setY v).mmuEnabled = s.mmuEnabled := rfl
@[simp] theorem State.setY_executiveEnabled (v : Word) : (s.setY v).executiveEnabled = s.executiveEnabled := rfl
@[simp] theorem State.setY_allRAM (v : Word) : (s.setY v).allRAM = s.allRAM := rfl
@[simp] theorem State.setY_romMode (v : Word) : (s.setY v).romMode = s.romMode := rfl
@[simp] theorem State.setY_parExec (v : Word) : (s.setY v).parExec = s.parExec := rfl
@[simp] theorem State.setY_parTask (v : Word) : (s.setY v).parTask = s.parTask := rfl
@[simp] theorem State.setY_ram (v : Word) : (s.setY v).ram = s.ram := rfl
@[simp] theorem State.setY_sysRom (v : Word) : (s.setY v).sysRom = s.sysRom := rfl
@[simp] theorem State.setY_cartRom (v : Word) : (s.setY v).cartRom = s.cartRom := rfl
@[simp] theorem State.setY_cartSize (v : Word) : (s.setY v).cartSize = s.cartSize := rfl
@[simp] theorem State.setY_irqLatch (v : Word) : (s.setY v).irqLatch = s.irqLatch := rfl
@[simp] theorem State.setY_firqLatch (v : Word) : (s.setY v).firqLatch = s.firqLatch := rfl
@[simp] theorem State.setY_nmiLatch (v : Word) : (s.setY v).nmiLatch = s.nmiLatch := rfl
@[simp] theorem State.setY_cwaiWait (v : Word) : (s.setY v).cwaiWait = s.cwaiWait := rfl
@[simp] theorem State.setY_syncWait (v : Word) : (s.setY v).syncWait = s.syncWait := rfl
@[simp] theorem State.setY_cfg (v : Word) : (s.setY v).cfg = s.cfg := rfl
@[simp] theorem State.setY_ticks (v : Word) : (s.setY v).ticks = s.ticks := rfl
@[simp] theorem State.setY_draws (v : Word) : (s.setY v).draws = s.draws := rfl
@[simp] theorem State.setY_deviceAnswers (v : Word) : (s.setY v).deviceAnswers = s.deviceAnswers := rfl
@[simp] theorem State.setY_events (v : Word) : (s.setY v).events = s.events := rfl

/-! `State.setU` -/

@[simp] theorem State.setU_a (v : Word) : (s.setU v).a = s.a := rfl
@[simp] theorem State.setU_b (v : Word) : (s.setU v).b = s.b := rfl
@[simp] theorem State.setU_x (v : Word) : (s.setU v).x = s.x := rfl
@[simp] theorem State.setU_y (v : Word) : (s.setU v).y = s.y := rfl
@[simp] theorem State.setU_u (v : Word) : (s.setU v).u = v := rfl
@[simp] theorem State.setU_sp (v : Word) : (s.setU v).sp = s.sp := rfl
@[simp] theorem State.setU_pc (v : Word) : (s.setU v).pc = s.pc := rfl
@[simp] theorem State.setU_dp (v : Word) : (s.setU v).dp = s.dp := rfl
@[simp] theorem State.setU_cc (v : Word) : (s.setU v).cc = s.cc := rfl
@[simp] theorem State.setU_mmuEnabled (v : Word) : (s.setU v).mmuEnabled = s.mmuEnabled := rfl
@[simp] theorem State.setU_executiveEnabled (v : Word) : (s.setU v).executiveEnabled = s.executiveEnabled := rfl
@[simp] theorem State.setU_allRAM (v : Word) : (s.setU v).allRAM = s.allRAM := rfl
@[simp] theorem State.setU_romMode (v : Word) : (s.setU v).romMode = s.romMode := rfl
@[simp] theorem State.setU_parExec (v : Word) : (s.setU v).parExec = s.parExec := rfl
@[simp] theorem State.setU_parTask (v : Word) : (s.setU v).parTask = s.parTask := rfl
@[simp] theorem State.setU_ram (v : Word) : (s.setU v).ram = s.ram := rfl
@[simp] theorem State.setU_sysRom (v : Word) : (s.setU v).sysRom = s.sysRom := rfl
@[simp] theorem State.setU_cartRom (v : Word) : (s.setU v).cartRom = s.cartRom := rfl
@[simp] theorem State.setU_cartSize (v : Word) : (s.setU v).cartSize = s.cartSize := rfl
@[simp] theorem State.setU_irqLatch (v : Word) : (s.setU v).irqLatch = s.irqLatch := rfl
@[simp] theorem State.setU_firqLatch (v : Word) : (s.setU v).firqLatch = s.firqLatch := rfl
@[simp] theorem State.setU_nmiLatch (v : Word) : (s.setU v).nmiLatch = s.nmiLatch := rfl
@[simp] theorem State.setU_cwaiWait (v : Word) : (s.setU v).cwaiWait = s.cwaiWait := rfl
@[simp] theorem State.setU_syncWait (v : Word) : (s.setU v).syncWait = s.syncWait := rfl
@[simp] theorem State.setU_cfg (v : Word) : (s.setU v).cfg = s.cfg := rfl
@[simp] theorem State.setU_ticks (v : Word) : (s.setU v).ticks = s.ticks := rfl
@[simp] theorem State.setU_draws (v : Word) : (s.setU v).draws = s.draws := rfl
@[simp] theorem State.setU_deviceAnswers (v : Word) : (s.setU v).deviceAnswers = s.deviceAnswers := rfl
@[simp] theorem State.setU_events (v : Word) : (s.setU v).events = s.events := rfl

/-! `State.setSp` -/

@[simp] theorem State.setSp_a (v : Word) : (s.setSp v).a = s.a := rfl
@[simp] theorem State.setSp_b (v : Word) : (s.setSp v).b = s.b := rfl
@[simp] theorem State.setSp_x (v : Word) : (s.setSp v).x = s.x := rfl
@[simp] theorem State.setSp_y (v : Word) : (s.setSp v).y = s.y := rfl
@[simp] theorem State.setSp_u (v : Word) : (s.setSp v).u = s.u := rfl
@[simp] theorem State.setSp_sp (v : Word) : (s.setSp v).sp = v := rfl
@[simp] theorem State.setSp_pc (v : Word) : (s.setSp v).pc = s.pc := rfl
@[simp] theorem State.setSp_dp (v : Word) : (s.setSp v).dp = s.dp := rfl
@[simp] theorem State.setSp_cc (v : Word) : (s.setSp v).cc = s.cc := rfl
@[simp] theorem State.setSp_mmuEnabled (v : Word) : (s.setSp v).mmuEnabled = s.mmuEnabled := rfl
@[simp] theorem State.setSp_executiveEnabled (v : Word) : (s.setSp v).executiveEnabled = s.executiveEnabled := rfl
@[simp] theorem State.setSp_allRAM (v : Word) : (s.setSp v).allRAM = s.allRAM := rfl
@[simp] theorem State.setSp_romMode (v : Word) : (s.setSp v).romMode = s.romMode := rfl
@[simp] theorem State.setSp_parExec (v : Word) : (s.setSp v).parExec = s.parExec := rfl
@[simp] theorem State.setSp_parTask (v : Word) : (s.setSp v).parTask = s.parTask := rfl
@[simp] theorem State.setSp_ram (v : Word) : (s.setSp v).ram = s.ram := rfl
@[simp] theorem State.setSp_sysRom (v : Word) : (s.setSp v).sysRom = s.sysRom := rfl
@[simp] theorem State.setSp_cartRom (v : Word) : (s.setSp v).cartRom = s.cartRom := rfl
@[simp] theorem State.setSp_cartSize (v : Word) : (s.setSp v).cartSize = s.cartSize := rfl
@[simp] theorem State.setSp_irqLatch (v : Word) : (s.setSp v).irqLatch = s.irqLatch := rfl
@[simp] theorem State.setSp_firqLatch (v : Word) : (s.setSp v).firqLatch = s.firqLatch := rfl
@[simp] theorem State.setSp_nmiLatch (v : Word) : (s.setSp v).nmiLatch = s.nmiLatch := rfl
@[simp] theorem State.setSp_cwaiWait (v : Word) : (s.setSp v).cwaiWait = s.cwaiWait := rfl
@[simp] theorem State.setSp_syncWait (v : Word) : (s.setSp v).syncWait = s.syncWait := rfl
@[simp] theorem State.setSp_cfg (v : Word) : (s.setSp v).cfg = s.cfg := rfl
@[simp] theorem State.setSp_ticks (v : Word) : (s.setSp v).ticks = s.ticks := rfl
@[simp] theorem State.setSp_draws (v : Word) : (s.setSp v).draws = s.draws := rfl
@[simp] theorem State.setSp_deviceAnswers (v : Word) : (s.setSp v).deviceAnswers = s.deviceAnswers := rfl
@[simp] theorem State.setSp_events (v : Word) : (s.setSp v).events = s.events := rfl

/-! `State.setPc` -/

@[simp] theorem State.setPc_a (v : Word) : (s.setPc v).a = s.a := rfl
@[simp] theorem State.setPc_b (v : Word) : (s.setPc v).b = s.b := rfl
@[simp] theorem State.setPc_x (v : Word) : (s.setPc v).x = s.x := rfl
@[simp] theorem State.setPc_y (v : Word) : (s.setPc v).y = s.y := rfl
@[simp] theorem State.setPc_u (v : Word) : (s.setPc v).u = s.u := rfl
@[simp] theorem State.setPc_sp (v : Word) : (s.setPc v).sp = s.sp := rfl
@[simp] theorem State.setPc_pc (v : Word) : (s.setPc v).pc = v := rfl
@[simp] theorem State.setPc_dp (v : Word) : (s.setPc v).dp = s.dp := rfl
@[simp] theorem State.setPc_cc (v : Word) : (s.setPc v).cc = s.cc := rfl
@[simp] theorem State.setPc_mmuEnabled (v : Word) : (s.setPc v).mmuEnabled = s.mmuEnabled := rfl
@[simp] theorem State.setPc_executiveEnabled (v : Word) : (s.setPc v).executiveEnabled = s.executiveEnabled := rfl
@[simp] theorem State.setPc_allRAM (v : Word) : (s.setPc v).allRAM = s.allRAM := rfl
@[simp] theorem State.setPc_romMode (v : Word) : (s.setPc v).romMode = s.romMode := rfl
@[simp] theorem State.setPc_parExec (v : Word) : (s.setPc v).parExec = s.parExec := rfl
@[simp] theorem State.setPc_parTask (v : Word) : (s.setPc v).parTask = s.parTask := rfl
@[simp] theorem State.setPc_ram (v : Word) : (s.setPc v).ram = s.ram := rfl
@[simp] theorem State.setPc_sysRom (v : Word) : (s.setPc v).sysRom = s.sysRom := rfl
@[simp] theorem State.setPc_cartRom (v : Word) : (s.setPc v).cartRom = s.cartRom := rfl
@[simp] theorem State.setPc_cartSize (v : Word) : (s.setPc v).cartSize = s.cartSize := rfl
@[simp] theorem State.setPc_irqLatch (v : Word) : (s.setPc v).irqLatch = s.irqLatch := rfl
@[simp] theorem State.setPc_firqLatch (v : Word) : (s.setPc v).firqLatch = s.firqLatch := rfl
@[simp] theorem State.setPc_nmiLatch (v : Word) : (s.setPc v).nmiLatch = s.nmiLatch := rfl
@[simp] theorem State.setPc_cwaiWait (v : Word) : (s.setPc v).cwaiWait = s.cwaiWait := rfl
@[simp] theorem State.setPc_syncWait (v : Word) : (s.setPc v).syncWait = s.syncWait := rfl
@[simp] theorem State.setPc_cfg (v : Word) : (s.setPc v).cfg = s.cfg := rfl
@[simp] theorem State.setPc_ticks (v : Word) : (s.setPc v).ticks = s.ticks := rfl
@[simp] theorem State.setPc_draws (v : Word) : (s.setPc v).draws = s.draws := rfl
@[simp] theorem State.setPc_deviceAnswers (v : Word) : (s.setPc v).deviceAnswers = s.deviceAnswers := rfl
@[simp] theorem State.setPc_events (v : Word) : (s.setPc v).events = s.events := rfl

/-! `State.setDp` -/

@[simp] theorem State.setDp_a (v : Byte) : (s.setDp v).a = s.a := rfl
@[simp] theorem State.setDp_b (v : Byte) : (s.setDp v).b = s.b := rfl
@[simp] theorem State.setDp_x (v : Byte) : (s.setDp v).x = s.x := rfl
@[simp] theorem State.setDp_y (v : Byte) : (s.setDp v).y = s.y := rfl
@[simp] theorem State.setDp_u (v : Byte) : (s.setDp v).u = s.u := rfl
@[simp] theorem State.setDp_sp (v : Byte) : (s.setDp v).sp = s.sp := rfl
@[simp] theorem State.setDp_pc (v : Byte) : (s.setDp v).pc = s.pc := rfl
@[simp] theorem State.setDp_dp (v : Byte) : (s.setDp v).dp = v := rfl
@[simp] theorem State.setDp_cc (v : Byte) : (s.setDp v).cc = s.cc := rfl
@[simp] theorem State.setDp_mmuEnabled (v : Byte) : (s.setDp v).mmuEnabled = s.mmuEnabled := rfl
@[simp] theorem State.setDp_executiveEnabled (v : Byte) : (s.setDp v).executiveEnabled = s.executiveEnabled := rfl
@[simp] theorem State.setDp_allRAM (v : Byte) : (s.setDp v).allRAM = s.allRAM := rfl
@[simp] theorem State.setDp_romMode (v : Byte) : (s.setDp v).romMode = s.romMode := rfl
@[simp] theorem State.setDp_parExec (v : Byte) : (s.setDp v).parExec = s.parExec := rfl
@[simp] theorem State.setDp_parTask (v : Byte) : (s.setDp v).parTask = s.parTask := rfl
@[simp] theorem State.setDp_ram (v : Byte) : (s.setDp v).ram = s.ram := rfl
@[simp] theorem State.setDp_sysRom (v : Byte) : (s.setDp v).sysRom = s.sysRom := rfl
@[simp] theorem State.setDp_cartRom (v : Byte) : (s.setDp v).cartRom = s.cartRom := rfl
@[simp] theorem State.setDp_cartSize (v : Byte) : (s.setDp v).cartSize = s.cartSize := rfl
@[simp] theorem State.setDp_irqLatch (v : Byte) : (s.setDp v).irqLatch = s.irqLatch := rfl
@[simp] theorem State.setDp_firqLatch (v : Byte) : (s.setDp v).firqLatch = s.firqLatch := rfl
@[simp] theorem State.setDp_nmiLatch (v : Byte) : (s.setDp v).nmiLatch = s.nmiLatch := rfl
@[simp] theorem State.setDp_cwaiWait (v : Byte) : (s.setDp v).cwaiWait = s.cwaiWait := rfl
@[simp] theorem State.setDp_syncWait (v : Byte) : (s.setDp v).syncWait = s.syncWait := rfl
@[simp] theorem State.setDp_cfg (v : Byte) : (s.setDp v).cfg = s.cfg := rfl
@[simp] theorem State.setDp_ticks (v : Byte) : (s.setDp v).ticks = s.ticks := rfl
@[simp] theorem State.setDp_draws (v : Byte) : (s.setDp v).draws = s.draws := rfl
@[simp] theorem State.setDp_deviceAnswers (v : Byte) : (s.setDp v).deviceAnswers = s.deviceAnswers := rfl
@[simp] theorem State.setDp_events (v : Byte) : (s.setDp v).events = s.events := rfl

/-! `State.setCC` -/

@[simp] theorem State.setCC_a (v : CC) : (s.setCC v).a = s.a := rfl
@[simp] theorem State.setCC_b (v : CC) : (s.setCC v).b = s.b := rfl
@[simp] theorem State.setCC_x (v : CC) : (s.setCC v).x = s.x := rfl
@[simp] theorem State.setCC_y (v : CC) : (s.setCC v).y = s.y := rfl
@[simp] theorem State.setCC_u (v : CC) : (s.setCC v).u = s.u := rfl
@[simp] theorem State.setCC_sp (v : CC) : (s.setCC v).sp = s.sp := rfl
@[simp] theorem State.setCC_pc (v : CC) : (s.setCC v).pc = s.pc := rfl
@[simp] theorem State.setCC_dp (v : CC) : (s.setCC v).dp = s.dp := rfl
@[simp] theorem State.setCC_cc (v : CC) : (s.setCC v).cc = v := rfl
@[simp] theorem State.setCC_mmuEnabled (v : CC) : (s.setCC v).mmuEnabled = s.mmuEnabled := rfl
@[simp] theorem State.setCC_executiveEnabled (v : CC) : (s.setCC v).executiveEnabled = s.executiveEnabled := rfl
@[simp] theorem State.setCC_allRAM (v : CC) : (s.setCC v).allRAM = s.allRAM := rfl
@[simp] theorem State.setCC_romMode (v : CC) : (s.setCC v).romMode = s.romMode := rfl
@[simp] theorem State.setCC_parExec (v : CC) : (s.setCC v).parExec = s.parExec := rfl
@[simp] theorem State.setCC_parTask (v : CC) : (s.setCC v).parTask = s.parTask := rfl
@[simp] theorem State.setCC_ram (v : CC) : (s.setCC v).ram = s.ram := rfl
@[simp] theorem State.setCC_sysRom (v : CC) : (s.setCC v).sysRom = s.sysRom := rfl
@[simp] theorem State.setCC_cartRom (v : CC) : (s.setCC v).cartRom = s.cartRom := rfl
@[simp] theorem State.setCC_cartSize (v : CC) : (s.setCC v).cartSize = s.cartSize := rfl
@[simp] theorem State.setCC_irqLatch (v : CC) : (s.setCC v).irqLatch = s.irqLatch := rfl
@[simp] theorem State.setCC_firqLatch (v : CC) : (s.setCC v).firqLatch = s.firqLatch := rfl
@[simp] theorem State.setCC_nmiLatch (v : CC) : (s.setCC v).nmiLatch = s.nmiLatch := rfl
@[simp] theorem State.setCC_cwaiWait (v : CC) : (s.setCC v).cwaiWait = s.cwaiWait := rfl
@[simp] theorem State.setCC_syncWait (v : CC) : (s.setCC v).syncWait = s.syncWait := rfl
@[simp] theorem State.setCC_cfg (v : CC) : (s.setCC v).cfg = s.cfg := rfl
@[simp] theorem State.setCC_ticks (v : CC) : (s.setCC v).ticks = s.ticks := rfl
@[simp] theorem State.setCC_draws (v : CC) : (s.setCC v).draws = s.draws := rfl
@[simp] theorem State.setCC_deviceAnswers (v : CC) : (s.setCC v).deviceAnswers = s.deviceAnswers := rfl
@[simp] theorem State.setCC_events (v : CC) : (s.setCC v).events = s.events := rfl

/-! `State.setD` -/

@[simp] theorem State.setD_a (v : Word) : (s.setD v).a = hiByte v := rfl
@[simp] theorem State.setD_b (v : Word) : (s.setD v).b = loByte v := rfl
@[simp] theorem State.setD_x (v : Word) : (s.setD v).x = s.x := rfl
@[simp] theorem State.setD_y (v : Word) : (s.setD v).y = s.y := rfl
@[simp] theorem State.setD_u (v : Word) : (s.setD v).u = s.u := rfl
@[simp] theorem State.setD_sp (v : Word) : (s.setD v).sp = s.sp := rfl
@[simp] theorem State.setD_pc (v : Word) : (s.setD v).pc = s.pc := rfl
@[simp] theorem State.setD_dp (v : Word) : (s.setD v).dp = s.dp := rfl
@[simp] theorem State.setD_cc (v : Word) : (s.setD v).cc = s.cc := rfl
@[simp] theorem State.setD_mmuEnabled (v : Word) : (s.setD v).mmuEnabled = s.mmuEnabled := rfl
@[simp] theorem State.setD_executiveEnabled (v : Word) : (s.setD v).executiveEnabled = s.executiveEnabled := rfl
@[simp] theorem State.setD_allRAM (v : Word) : (s.setD v).allRAM = s.allRAM := rfl
@[simp] theorem State.setD_romMode (v : Word) : (s.setD v).romMode = s.romMode := rfl
@[simp] theorem State.setD_parExec (v : Word) : (s.setD v).parExec = s.parExec := rfl
@[simp] theorem State.setD_parTask (v : Word) : (s.setD v).parTask = s.parTask := rfl
@[simp] theorem State.setD_ram (v : Word) : (s.setD v).ram = s.ram := rfl
@[simp] theorem State.setD_sysRom (v : Word) : (s.setD v).sysRom = s.sysRom := rfl
@[simp] theorem State.setD_cartRom (v : Word) : (s.setD v).cartRom = s.cartRom := rfl
@[simp] theorem State.setD_cartSize (v : Word) : (s.setD v).cartSize = s.cartSize := rfl
@[simp] theorem State.setD_irqLatch (v : Word) : (s.setD v).irqLatch = s.irqLatch := rfl
@[simp] theorem State.setD_firqLatch (v : Word) : (s.setD v).firqLatch = s.firqLatch := rfl
@[simp] theorem State.setD_nmiLatch (v : Word) : (s.setD v).nmiLatch = s.nmiLatch := rfl
@[simp] theorem State.setD_cwaiWait (v : Word) : (s.setD v).cwaiWait = s.cwaiWait := rfl
@[simp] theorem State.setD_syncWait (v : Word) : (s.setD v).syncWait = s.syncWait := rfl
@[simp] theorem State.setD_cfg (v : Word) : (s.setD v).cfg = s.cfg := rfl
@[simp] theorem State.setD_ticks (v : Word) : (s.setD v).ticks = s.ticks := rfl
@[simp] theorem State.setD_draws (v : Word) : (s.setD v).draws = s.draws := rfl
@[simp] theorem State.setD_deviceAnswers (v : Word) : (s.setD v).deviceAnswers = s.deviceAnswers := rfl
@[simp] theorem State.setD_events (v : Word) : (s.setD v).events = s.events := rfl

/-! `State.setCCByte` -/

@[simp] theorem State.setCCByte_a (v : Byte) : (s.setCCByte v).a = s.a := rfl
@[simp] theorem State.setCCByte_b (v : Byte) : (s.setCCByte v).b = s.b := rfl
@[simp] theorem State.setCCByte_x (v : Byte) : (s.setCCByte v).x = s.x := rfl
@[simp] theorem State.setCCByte_y (v : Byte) : (s.setCCByte v).y = s.y := rfl
@[simp] theorem State.setCCByte_u (v : Byte) : (s.setCCByte v).u = s.u := rfl
@[simp] theorem State.setCCByte_sp (v : Byte) : (s.setCCByte v).sp = s.sp := rfl
@[simp] theorem State.setCCByte_pc (v : Byte) : (s.setCCByte v).pc = s.pc := rfl
@[simp] theorem State.setCCByte_dp (v : Byte) : (s.setCCByte v).dp = s.dp := rfl
@[simp] theorem State.setCCByte_cc (v : Byte) : (s.setCCByte v).cc = CC.ofByte v := rfl
@[simp] theorem State.setCCByte_mmuEnabled (v : Byte) : (s.setCCByte v).mmuEnabled = s.mmuEnabled := rfl
@[simp] theorem State.setCCByte_executiveEnabled (v : Byte) : (s.setCCByte v).executiveEnabled = s.executiveEnabled := rfl
@[simp] theorem State.setCCByte_allRAM (v : Byte) : (s.setCCByte v).allRAM = s.allRAM := rfl
@[simp] theorem State.setCCByte_romMode (v : Byte) : (s.setCCByte v).romMode = s.romMode := rfl
@[simp] theorem State.setCCByte_parExec (v : Byte) : (s.setCCByte v).parExec = s.parExec := rfl
@[simp] theorem State.setCCByte_parTask (v : Byte) : (s.setCCByte v).parTask = s.parTask := rfl
@[simp] theorem State.setCCByte_ram (v : Byte) : (s.setCCByte v).ram = s.ram := rfl
@[simp] theorem State.setCCByte_sysRom (v : Byte) : (s.setCCByte v).sysRom = s.sysRom := rfl
@[simp] theorem State.setCCByte_cartRom (v : Byte) : (s.setCCByte v).cartRom = s.cartRom := rfl
@[simp] theorem State.setCCByte_cartSize (v : Byte) : (s.setCCByte v).cartSize = s.cartSize := rfl
@[simp] theorem State.setCCByte_irqLatch (v : Byte) : (s.setCCByte v).irqLatch = s.irqLatch := rfl
@[simp] theorem State.setCCByte_firqLatch (v : Byte) : (s.setCCByte v).firqLatch = s.firqLatch := rfl
@[simp] theorem State.setCCByte_nmiLatch (v : Byte) : (s.setCCByte v).nmiLatch = s.nmiLatch := rfl
@[simp] theorem State.setCCByte_cwaiWait (v : Byte) : (s.setCCByte v).cwaiWait = s.cwaiWait := rfl
@[simp] theorem State.setCCByte_syncWait (v : Byte) : (s.setCCByte v).syncWait = s.syncWait := rfl
@[simp] theorem State.setCCByte_cfg (v : Byte) : (s.setCCByte v).cfg = s.cfg := rfl
@[simp] theorem State.setCCByte_ticks (v : Byte) : (s.setCCByte v).ticks = s.ticks := rfl
@[simp] theorem State.setCCByte_draws (v : Byte) : (s.setCCByte v).draws = s.draws := rfl
@[simp] theorem State.setCCByte_deviceAnswers (v : Byte) : (s.setCCByte v).deviceAnswers = s.deviceAnswers := rfl
@[simp] theorem State.setCCByte_events (v : Byte) : (s.setCCByte v).events = s.events := rfl

/-! `State.tick` -/

@[simp] theorem State.tick_a (v : Nat) : (s.tick v).a = s.a := rfl
@[simp] theorem State.tick_b (v : Nat) : (s.tick v).b = s.b := rfl
@[simp] theorem State.tick_x (v : Nat) : (s.tick v).x = s.x := rfl
@[simp] theorem State.tick_y (v : Nat) : (s.tick v).y = s.y := rfl
@[simp] theorem State.tick_u (v : Nat) : (s.tick v).u = s.u := rfl
@[simp] theorem State.tick_sp (v : Nat) : (s.tick v).sp = s.sp := rfl
@[simp] theorem State.tick_pc (v : Nat) : (s.tick v).pc = s.pc := rfl
@[simp] theorem State.tick_dp (v : Nat) : (s.tick v).dp = s.dp := rfl
@[simp] theorem State.tick_cc (v : Nat) : (s.tick v).cc = s.cc := rfl
@[simp] theorem State.tick_mmuEnabled (v : Nat) : (s.tick v).mmuEnabled = s.mmuEnabled := rfl
@[simp] theorem State.tick_executiveEnabled (v : Nat) : (s.tick v).executiveEnabled = s.executiveEnabled := rfl
@[simp] theorem State.tick_allRAM (v : Nat) : (s.tick v).allRAM = s.allRAM := rfl
@[simp] theorem State.tick_romMode (v : Nat) : (s.tick v).romMode = s.romMode := rfl
@[simp] theorem State.tick_parExec (v : Nat) : (s.tick v).parExec = s.parExec := rfl
@[simp] theorem State.tick_parTask (v : Nat) : (s.tick v).parTask = s.parTask := rfl
@[simp] theorem State.tick_ram (v : Nat) : (s.tick v).ram = s.ram := rfl
@[simp] theorem State.tick_sysRom (v : Nat) : (s.tick v).sysRom = s.sysRom := rfl
@[simp] theorem State.tick_cartRom (v : Nat) : (s.tick v).cartRom = s.cartRom := rfl
@[simp] theorem State.tick_cartSize (v : Nat) : (s.tick v).cartSize = s.cartSize := rfl
@[simp] theorem State.tick_irqLatch (v : Nat) : (s.tick v).irqLatch = s.irqLatch := rfl
@[simp] theorem State.tick_firqLatch (v : Nat) : (s.tick v).firqLatch = s.firqLatch := rfl
@[simp] theorem State.tick_nmiLatch (v : Nat) : (s.tick v).nmiLatch = s.nmiLatch := rfl
@[simp] theorem State.tick_cwaiWait (v : Nat) : (s.tick v).cwaiWait = s.cwaiWait := rfl
@[simp] theorem State.tick_syncWait (v : Nat) : (s.tick v).syncWait = s.syncWait := rfl
@[simp] theorem State.tick_cfg (v : Nat) : (s.tick v).cfg = s.cfg := rfl
@[simp] theorem State.tick_ticks (v : Nat) : (s.tick v).ticks = s.ticks + v := rfl
@[simp] theorem State.tick_draws (v : Nat) : (s.tick v).draws = s.draws := rfl
@[simp] theorem State.tick_deviceAnswers (v : Nat) : (s.tick v).deviceAnswers = s.deviceAnswers := rfl
@[simp] theorem State.tick_events (v : Nat) : (s.tick v).events = s.events := rfl

/-! `State.record` -/

@[simp] theorem State.record_a (v : Event) : (s.record v).a = s.a := rfl
@[simp] theorem State.record_b (v : Event) : (s.record v).b = s.b := rfl
@[simp] theorem State.record_x (v : Event) : (s.record v).x = s.x := rfl
@[simp] theorem State.record_y (v : Event) : (s.record v).y = s.y := rfl
@[simp] theorem State.record_u (v : Event) : (s.record v).u = s.u := rfl
@[simp] theorem State.record_sp (v : Event) : (s.record v).sp = s.sp := rfl
@[simp] theorem State.record_pc (v : Event) : (s.record v).pc = s.pc := rfl
@[simp] theorem State.record_dp (v : Event) : (s.record v).dp = s.dp := rfl
@[simp] theorem State.record_cc (v : Event) : (s.record v).cc = s.cc := rfl
@[simp] theorem State.record_mmuEnabled (v : Event) : (s.record v).mmuEnabled = s.mmuEnabled := rfl
@[simp] theorem State.record_executiveEnabled (v : Event) : (s.record v).executiveEnabled = s.executiveEnabled := rfl
@[simp] theorem State.record_allRAM (v : Event) : (s.record v).allRAM = s.allRAM := rfl
@[simp] theorem State.record_romMode (v : Event) : (s.record v).romMode = s.romMode := rfl
@[simp] theorem State.record_parExec (v : Event) : (s.record v).parExec = s.parExec := rfl
@[simp] theorem State.record_parTask (v : Event) : (s.record v).parTask = s.parTask := rfl
@[simp] theorem State.record_ram (v : Event) : (s.record v).ram = s.ram := rfl
@[simp] theorem State.record_sysRom (v : Event) : (s.record v).sysRom = s.sysRom := rfl
@[simp] theorem State.record_cartRom (v : Event) : (s.record v).cartRom = s.cartRom := rfl
@[simp] theorem State.record_cartSize (v : Event) : (s.record v).cartSize = s.cartSize := rfl
@[simp] theorem State.record_irqLatch (v : Event) : (s.record v).irqLatch = s.irqLatch := rfl
@[simp] theorem State.record_firqLatch (v : Event) : (s.record v).firqLatch = s.firqLatch := rfl
@[simp] theorem State.record_nmiLatch (v : Event) : (s.record v).nmiLatch = s.nmiLatch := rfl
@[simp] theorem State.record_cwaiWait (v : Event) : (s.record v).cwaiWait = s.cwaiWait := rfl
@[simp] theorem State.record_syncWait (v : Event) : (s.record v).syncWait = s.syncWait := rfl
@[simp] theorem State.record_cfg (v : Event) : (s.record v).cfg = s.cfg := rfl
@[simp] theorem State.record_ticks (v : Event) : (s.record v).ticks = s.ticks := rfl
@[simp] theorem State.record_draws (v : Event) : (s.record v).draws = s.draws := rfl
@[simp] theorem State.record_deviceAnswers (v : Event) : (s.record v).deviceAnswers = s.deviceAnswers := rfl
@[simp] theorem State.record_events (v : Event) : (s.record v).events = s.events ++ [v] := rfl

/-! `State.latch` -/

@[simp] theorem State.latch_a (v : DeviceAnswer) : (s.latch v).a = s.a := rfl
@[simp] theorem State.latch_b (v : DeviceAnswer) : (s.latch v).b = s.b := rfl
@[simp] theorem State.latch_x (v : DeviceAnswer) : (s.latch v).x = s.x := rfl
@[simp] theorem State.latch_y (v : DeviceAnswer) : (s.latch v).y = s.y := rfl
@[simp] theorem State.latch_u (v : DeviceAnswer) : (s.latch v).u = s.u := rfl
@[simp] theorem State.latch_sp (v : DeviceAnswer) : (s.latch v).sp = s.sp := rfl
@[simp] theorem State.latch_pc (v : DeviceAnswer) : (s.latch v).pc = s.pc := rfl
@[simp] theorem State.latch_dp (v : DeviceAnswer) : (s.latch v).dp = s.dp := rfl
@[simp] theorem State.latch_cc (v : DeviceAnswer) : (s.latch v).cc = s.cc := rfl
@[simp] theorem State.latch_mmuEnabled (v : DeviceAnswer) : (s.latch v).mmuEnabled = s.mmuEnabled := rfl
@[simp] theorem State.latch_executiveEnabled (v : DeviceAnswer) : (s.latch v).executiveEnabled = s.executiveEnabled := rfl
@[simp] theorem State.latch_allRAM (v : DeviceAnswer) : (s.latch v).allRAM = s.allRAM := rfl
@[simp] theorem State.latch_romMode (v : DeviceAnswer) : (s.latch v).romMode = s.romMode := rfl
@[simp] theorem State.latch_parExec (v : DeviceAnswer) : (s.latch v).parExec = s.parExec := rfl
@[simp] theorem State.latch_parTask (v : DeviceAnswer) : (s.latch v).parTask = s.parTask := rfl
@[simp] theorem State.latch_ram (v : DeviceAnswer) : (s.latch v).ram = s.ram := rfl
@[simp] theorem State.latch_sysRom (v : DeviceAnswer) : (s.latch v).sysRom = s.sysRom := rfl
@[simp] theorem State.latch_cartRom (v : DeviceAnswer) : (s.latch v).cartRom = s.cartRom := rfl
@[simp] theorem State.latch_cartSize (v : DeviceAnswer) : (s.latch v).cartSize = s.cartSize := rfl
@[simp] theorem State.latch_irqLatch (v : DeviceAnswer) : (s.latch v).irqLatch = (s.irqLatch || v.irq) := rfl
@[simp] theorem State.latch_firqLatch (v : DeviceAnswer) : (s.latch v).firqLatch = (s.firqLatch || v.firq) := rfl
@[simp] theorem State.latch_nmiLatch (v : DeviceAnswer) : (s.latch v).nmiLatch = (s.nmiLatch || v.nmi) := rfl
@[simp] theorem State.latch_cwaiWait (v : DeviceAnswer) : (s.latch v).cwaiWait = s.cwaiWait := rfl
@[simp] theorem State.latch_syncWait (v : DeviceAnswer) : (s.latch v).syncWait = s.syncWait := rfl
@[simp] theorem State.latch_cfg (v : DeviceAnswer) : (s.latch v).cfg = s.cfg := rfl
@[simp] theorem State.latch_ticks (v : DeviceAnswer) : (s.latch v).ticks = s.ticks := rfl
@[simp] theorem State.latch_draws (v : DeviceAnswer) : (s.latch v).draws = s.draws := rfl
@[simp] theorem State.latch_deviceAnswers (v : DeviceAnswer) : (s.latch v).deviceAnswers = s.deviceAnswers := rfl
@[simp] theorem State.latch_events (v : DeviceAnswer) : (s.latch v).events = s.events := rfl

/-! `State.setIndex` and `State.setStack`: no field but the selected register -/

@[simp] theorem State.setIndex_a (r : IndexReg) (v : Word) : (s.setIndex r v).a = s.a := by cases r <;> rfl
@[simp] theorem State.setIndex_b (r : IndexReg) (v : Word) : (s.setIndex r v).b = s.b := by cases r <;> rfl
@[simp] theorem State.setIndex_pc (r : IndexReg) (v : Word) : (s.setIndex r v).pc = s.pc := by cases r <;> rfl
@[simp] theorem State.setIndex_dp (r : IndexReg) (v : Word) : (s.setIndex r v).dp = s.dp := by cases r <;> rfl
@[simp] theorem State.setIndex_cc (r : IndexReg) (v : Word) : (s.setIndex r v).cc = s.cc := by cases r <;> rfl
@[simp] theorem State.setIndex_mmuEnabled (r : IndexReg) (v : Word) : (s.setIndex r v).mmuEnabled = s.mmuEnabled := by cases r <;> rfl
@[simp] theorem State.setIndex_executiveEnabled (r : IndexReg) (v : Word) : (s.setIndex r v).executiveEnabled = s.executiveEnabled := by cases r <;> rfl
@[simp] theorem State.setIndex_allRAM (r : IndexReg) (v : Word) : (s.setIndex r v).allRAM = s.allRAM := by cases r <;> rfl
@[simp] theorem State.setIndex_romMode (r : IndexReg) (v : Word) : (s.setIndex r v).romMode = s.romMode := by cases r <;> rfl
@[simp] theorem State.setIndex_parExec (r : IndexReg) (v : Word) : (s.setIndex r v).parExec = s.parExec := by cases r <;> rfl
@[simp] theorem State.setIndex_parTask (r : IndexReg) (v : Word) : (s.setIndex r v).parTask = s.parTask := by cases r <;> rfl
@[simp] theorem State.setIndex_ram (r : IndexReg) (v : Word) : (s.setIndex r v).ram = s.ram := by cases r <;> rfl
@[simp] theorem State.setIndex_sysRom (r : IndexReg) (v : Word) : (s.setIndex r v).sysRom = s.sysRom := by cases r <;> rfl
@[simp] theorem State.setIndex_cartRom (r : IndexReg) (v : Word) : (s.setIndex r v).cartRom = s.cartRom := by cases r <;> rfl
@[simp] theorem State.setIndex_cartSize (r : IndexReg) (v : Word) : (s.setIndex r v).cartSize = s.cartSize := by cases r <;> rfl
@[simp] theorem State.setIndex_irqLatch (r : IndexReg) (v : Word) : (s.setIndex r v).irqLatch = s.irqLatch := by cases r <;> rfl
@[simp] theorem State.setIndex_firqLatch (r : IndexReg) (v : Word) : (s.setIndex r v).firqLatch = s.firqLatch := by cases r <;> rfl
@[simp] theorem State.setIndex_nmiLatch (r : IndexReg) (v : Word) : (s.setIndex r v).nmiLatch = s.nmiLatch := by cases r <;> rfl
@[simp] theorem State.setIndex_cwaiWait (r : IndexReg) (v : Word) : (s.setIndex r v).cwaiWait = s.cwaiWait := by cases r <;> rfl
@[simp] theorem State.setIndex_syncWait (r : IndexReg) (v : Word) : (s.setIndex r v).syncWait = s.syncWait := by cases r <;> rfl
@[simp] theorem State.setIndex_cfg (r : IndexReg) (v : Word) : (s.setIndex r v).cfg = s.cfg := by cases r <;> rfl
@[simp] theorem State.setIndex_ticks (r : IndexReg) (v : Word) : (s.setIndex r v).ticks = s.ticks := by cases r <;> rfl
@[simp] theorem State.setIndex_draws (r : IndexReg) (v : Word) : (s.setIndex r v).draws = s.draws := by cases r <;> rfl
@[simp] theorem State.setIndex_deviceAnswers (r : IndexReg) (v : Word) : (s.setIndex r v).deviceAnswers = s.deviceAnswers := by cases r <;> rfl
@[simp] theorem State.setIndex_events (r : IndexReg) (v : Word) : (s.setIndex r v).events = s.events := by cases r <;> rfl

@[simp] theorem State.setStack_a (k : StackPtr) (v : Word) : (s.setStack k v).a = s.a := by cases k <;> rfl
@[simp] theorem State.setStack_b (k : StackPtr) (v : Word) : (s.setStack k v).b = s.b := by cases k <;> rfl
@[simp] theorem State.setStack_x (k : StackPtr) (v : Word) : (s.setStack k v).x = s.x := by cases k <;> rfl
@[simp] theorem State.setStack_y (k : StackPtr) (v : Word) : (s.setStack k v).y = s.y := by cases k <;> rfl
@[simp] theorem State.setStack_pc (k : StackPtr) (v : Word) : (s.setStack k v).pc = s.pc := by cases k <;> rfl
@[simp] theorem State.setStack_dp (k : StackPtr) (v : Word) : (s.setStack k v).dp = s.dp := by cases k <;> rfl
@[simp] theorem State.setStack_cc (k : StackPtr) (v : Word) : (s.setStack k v).cc = s.cc := by cases k <;> rfl
@[simp] theorem State.setStack_mmuEnabled (k : StackPtr) (v : Word) : (s.setStack k v).mmuEnabled = s.mmuEnabled := by cases k <;> rfl
@[simp] theorem State.setStack_executiveEnabled (k : StackPtr) (v : Word) : (s.setStack k v).executiveEnabled = s.executiveEnabled := by cases k <;> rfl
@[simp] theorem State.setStack_allRAM (k : StackPtr) (v : Word) : (s.setStack k v).allRAM = s.allRAM := by cases k <;> rfl
@[simp] theorem State.setStack_romMode (k : StackPtr) (v : Word) : (s.setStack k v).romMode = s.romMode := by cases k <;> rfl
@[simp] theorem State.setStack_parExec (k : StackPtr) (v : Word) : (s.setStack k v).parExec = s.parExec := by cases k <;> rfl
@[simp] theorem State.setStack_parTask (k : StackPtr) (v : Word) : (s.setStack k v).parTask = s.parTask := by cases k <;> rfl
@[simp] theorem State.setStack_ram (k : StackPtr) (v : Word) : (s.setStack k v).ram = s.ram := by cases k <;> rfl
@[simp] theorem State.setStack_sysRom (k : StackPtr) (v : Word) : (s.setStack k v).sysRom = s.sysRom := by cases k <;> rfl
@[simp] theorem State.setStack_cartRom (k : StackPtr) (v : Word) : (s.setStack k v).cartRom = s.cartRom := by cases k <;> rfl
@[simp] theorem State.setStack_cartSize (k : StackPtr) (v : Word) : (s.setStack k v).cartSize = s.cartSize := by cases k <;> rfl
@[simp] theorem State.setStack_irqLatch (k : StackPtr) (v : Word) : (s.setStack k v).irqLatch = s.irqLatch := by cases k <;> rfl
@[simp] theorem State.setStack_firqLatch (k : StackPtr) (v : Word) : (s.setStack k v).firqLatch = s.firqLatch := by cases k <;> rfl
@[simp] theorem State.setStack_nmiLatch (k : StackPtr) (v : Word) : (s.setStack k v).nmiLatch = s.nmiLatch := by cases k <;> rfl
@[simp] theorem State.setStack_cwaiWait (k : StackPtr) (v : Word) : (s.setStack k v).cwaiWait = s.cwaiWait := by cases k <;> rfl
@[simp] theorem State.setStack_syncWait (k : StackPtr) (v : Word) : (s.setStack k v).syncWait = s.syncWait := by cases k <;> rfl
@[simp] theorem State.setStack_cfg (k : StackPtr) (v : Word) : (s.setStack k v).cfg = s.cfg := by cases k <;> rfl
@[simp] theorem State.setStack_ticks (k : StackPtr) (v : Word) : (s.setStack k v).ticks = s.ticks := by cases k <;> rfl
@[simp] theorem State.setStack_draws (k : StackPtr) (v : Word) : (s.setStack k v).draws = s.draws := by cases k <;> rfl
@[simp] theorem State.setStack_deviceAnswers (k : StackPtr) (v : Word) : (s.setStack k v).deviceAnswers = s.deviceAnswers := by cases k <;> rfl
@[simp] theorem State.setStack_events (k : StackPtr) (v : Word) : (s.setStack k v).events = s.events := by cases k <;> rfl

@[simp] theorem State.index_setIndex (r q : IndexReg) (v : Word) :
    (s.setIndex r v).index q = if r = q then v else s.index q := by
  cases r <;> cases q <;> rfl

@[simp] theorem State.stack_setStack (k : StackPtr) (v : Word) : (s.setStack k v).stack k = v := by
  cases k <;> rfl

@[simp] theorem State.stack_setStack_other (k : StackPtr) (v : Word) :
    (s.setStack k v).stack k.other = s.stack k.other := by
  cases k <;> rfl

end Sys2Proof.Machine
end

