-- ==== Sys2Proof/Laws/Bus.lean ====
section
/-! SUPPORT. What a byte access can do: a read changes nothing but what `busFrame` lists, a write changes RAM at one
physical address or is delivered to the I/O window. -/

namespace Sys2Proof.Machine

@[simp] theorem busFrame_self (s : State) : busFrame s s = s := rfl

@[simp] theorem busFrame_busFrame (s t r : State) : busFrame (busFrame s t) r = busFrame s r := rfl

@[simp] theorem busFrame_frame (s t r : State) : busFrame s (busFrame t r) = busFrame s r := rfl

/-- A bus-only change followed by another is one. -/
theorem busFrame_trans {s t r : State} (h1 : t = busFrame s t) (h2 : r = busFrame t r) : r = busFrame s r := by
  rw [h2, h1]
  rfl

theorem drawByte_frame (s : State) : (drawByte s).2 = busFrame s (drawByte s).2 := rfl

theorem deviceRead_frame (va : Word) (s : State) : (deviceRead va s).2 = busFrame s (deviceRead va s).2 := by
  unfold deviceRead
  simp only [State.record_deviceAnswers]
  split <;> rfl

theorem deviceWrite_frame (va : Word) (v : Byte) (s : State) : deviceWrite va v s = busFrame s (deviceWrite va v s) := by
  unfold deviceWrite
  simp only [State.record_deviceAnswers]
  split <;> rfl

theorem parRead_frame (va : Word) (s : State) : (parRead va s).2 = busFrame s (parRead va s).2 := rfl

theorem cartRead_frame (o : Nat) (s : State) : (cartRead o s).2 = busFrame s (cartRead o s).2 := by
  unfold cartRead
  split <;> rfl

theorem romRead_frame (va : Word) (s : State) : (romRead va s).2 = busFrame s (romRead va s).2 := by
  unfold romRead
  simp only
  split
  · exact cartRead_frame _ s
  · split
    · rfl
    · exact cartRead_frame _ s

/-- A byte read changes nothing but what `busFrame` lists (R108, R110). -/
theorem readByte_frame (va : Word) (s : State) : (readByte va s).2 = busFrame s (readByte va s).2 := by
  unfold readByte
  split
  · rfl
  · split
    · split
      · exact parRead_frame va s
      · exact deviceRead_frame va s
    · split
      · exact romRead_frame va s
      · rfl

/-- A word read changes nothing but what `busFrame` lists (R104). -/
theorem readWord_frame (a : Word) (s : State) : (readWord a s).2 = busFrame s (readWord a s).2 :=
  busFrame_trans (readByte_frame a s) (readByte_frame (a + 1) (readByte a s).2)

/-- A plain read leaves the state as it is (R108). -/
theorem readByte_plain (va : Word) (s : State) (h : plainRead va s = true) : (readByte va s).2 = s := by
  unfold readByte
  unfold plainRead at h
  split
  · rfl
  · next hv =>
    split
    · next hio => simp [hv, hio] at h
    · next hio =>
      split
      · next ho =>
        unfold romRead cartRead
        by_cases h3 : s.romMode = 0b11
        · simp only [hv, hio, ho, if_pos h3, Bool.false_or, Bool.not_true, Bool.not_false, Bool.true_and, decide_eq_true_eq] at h
          rw [if_pos h3, if_pos h]
        · rw [if_neg h3]
          by_cases h2 : s.romMode = 0b10 ∨ s.romOffset va < 0x4000
          · rw [if_pos h2]
          · simp only [hv, hio, ho, if_neg h3, Bool.false_or, Bool.not_true, Bool.not_false, Bool.true_and,
              Bool.or_eq_true, decide_eq_true_eq] at h
            rw [if_neg h2, if_pos (h.resolve_left h2)]
      · rfl

theorem busFrame_translate (s t : State) (va : Word) : (busFrame s t).translate va = s.translate va := rfl

theorem busFrame_ramAt (s t : State) (va : Word) : (busFrame s t).ramAt va = s.ramAt va := rfl

/-- The physical address of a RAM byte lies in RAM (R101, R122). -/
theorem ramAt_lt {s : State} {va : Word} {pa : Nat} (h : s.ramAt va = some pa) : pa < Config.ramSize := by
  unfold State.ramAt at h
  split at h
  · cases h
  · split at h
    · cases h
    · cases h
      exact (s.translate va).isLt

theorem inIo_of_ioBase {va : Word} (h : Config.ioBase ≤ va.toNat) (hv : inVectors va = false) : inIo va = true := by
  simp [inIo, h, hv]

theorem ramAt_inVectors {s : State} {va : Word} (h : inVectors va = true) : s.ramAt va = none := by
  have : Config.ioBase ≤ va.toNat := by
    have h2 := of_decide_eq_true h
    unfold Config.vectorBase at h2
    unfold Config.ioBase
    omega
  simp [State.ramAt, this]

theorem ramAt_inIo {s : State} {va : Word} (h : inIo va = true) : s.ramAt va = none := by
  have : Config.ioBase ≤ va.toNat := by
    simp [inIo] at h
    exact h.1
  simp [State.ramAt, this]

/-- A byte write where a virtual address reaches RAM (R111). -/
theorem writeByte_ram {s : State} {va : Word} {pa : Nat} (v : Byte) (h : s.ramAt va = some pa) :
    writeByte va v s = { s with ram := s.ram.write pa v } := by
  unfold writeByte
  split
  · next hv => rw [ramAt_inVectors hv] at h; cases h
  · split
    · next hio => rw [ramAt_inIo hio] at h; cases h
    · rw [h]

/-- A byte write where a virtual address reaches neither RAM nor the I/O window is discarded (R112, R126). -/
theorem writeByte_discarded {s : State} {va : Word} (v : Byte) (hio : inIo va = false) (h : s.ramAt va = none) :
    writeByte va v s = s := by
  unfold writeByte
  split
  · rfl
  · simp [hio, h]

/-- A byte write in the I/O window (R111). -/
theorem writeByte_io {va : Word} (v : Byte) (s : State) (hio : inIo va = true) :
    writeByte va v s = mmuControlWrite va v (deviceWrite va v s) := by
  unfold writeByte
  split
  · next hv => simp [inIo, hv] at hio
  · simp

/-- A read of RAM (R110). -/
theorem readByte_ram {s : State} {va : Word} {pa : Nat} (h : s.ramAt va = some pa) :
    readByte va s = (s.ram.read pa, s) := by
  have hv : inVectors va = false := by
    cases hv : inVectors va
    · rfl
    · rw [ramAt_inVectors hv] at h; cases h
  have hio : inIo va = false := by
    cases hio : inIo va
    · rfl
    · rw [ramAt_inIo hio] at h; cases h
  unfold State.ramAt at h
  split at h
  · cases h
  · split at h
    · cases h
    · next ho =>
      cases h
      simp [readByte, hv, hio, ho]

/-- What an MMU register write may change (R130-R133). -/
theorem mmuControlWrite_frame (va : Word) (v : Byte) (s : State) :
    mmuControlWrite va v s =
      { s with
        mmuEnabled := (mmuControlWrite va v s).mmuEnabled, executiveEnabled := (mmuControlWrite va v s).executiveEnabled
        allRAM := (mmuControlWrite va v s).allRAM, romMode := (mmuControlWrite va v s).romMode
        parExec := (mmuControlWrite va v s).parExec, parTask := (mmuControlWrite va v s).parTask } := by
  unfold mmuControlWrite
  repeat' split
  all_goals rfl

theorem mmuControlWrite_other {va : Word} (v : Byte) (s : State) (h : isMmuRegister va = false) :
    mmuControlWrite va v s = s := by
  simp [isMmuRegister] at h
  simp [mmuControlWrite, h]

/-- A byte write changes RAM and the MMU state, and what `busFrame` lists (R111). -/
theorem writeByte_frame (va : Word) (v : Byte) (s : State) :
    writeByte va v s = storeFrame (busFrame s (writeByte va v s)) (writeByte va v s) := by
  cases hio : inIo va
  · cases h : s.ramAt va with
    | none => rw [writeByte_discarded v hio h]; rfl
    | some pa => rw [writeByte_ram v h]; rfl
  · rw [writeByte_io v s hio, mmuControlWrite_frame, deviceWrite_frame]
    rfl

theorem storeFrame_trans {s t r : State} (h1 : t = storeFrame (busFrame s t) t) (h2 : r = storeFrame (busFrame t r) r) :
    r = storeFrame (busFrame s r) r := by
  rw [h2, h1]
  rfl

/-- A word write changes RAM and the MMU state, and what `busFrame` lists (R104). -/
theorem writeWord_frame (a v : Word) (s : State) :
    writeWord a v s = storeFrame (busFrame s (writeWord a v s)) (writeWord a v s) :=
  storeFrame_trans (writeByte_frame a (hiByte v) s) (writeByte_frame (a + 1) (loByte v) (writeByte a (hiByte v) s))

/-- A byte write leaves every RAM byte alone but the one its address reaches (R111). -/
theorem writeByte_ram_other (va : Word) (v : Byte) (s : State) (pa : Nat) (h : s.ramAt va ≠ some pa) :
    (writeByte va v s).ram.read pa = s.ram.read pa := by
  cases hio : inIo va
  · cases hr : s.ramAt va with
    | none => rw [writeByte_discarded v hio hr]
    | some q =>
      rw [writeByte_ram v hr]
      have : q ≠ pa := fun e => h (e ▸ hr)
      simp [Memory.read_write, this]
  · rw [writeByte_io v s hio, mmuControlWrite_frame, deviceWrite_frame]
    rfl

/-- A byte write keeps the canonical form of RAM. -/
theorem writeByte_ram_wf (va : Word) (v : Byte) (s : State) (h : Memory.wf 0 Config.ramSize s.ram = true) :
    Memory.wf 0 Config.ramSize (writeByte va v s).ram = true := by
  cases hio : inIo va
  · cases hr : s.ramAt va with
    | none => rw [writeByte_discarded v hio hr]; exact h
    | some q =>
      rw [writeByte_ram v hr]
      exact Memory.wf_write _ _ _ _ h (ramAt_lt hr)
  · rw [writeByte_io v s hio, mmuControlWrite_frame, deviceWrite_frame]
    exact h

/-- A byte write away from the MMU's registers leaves the MMU state alone (R130-R133). -/
theorem writeByte_mmu (va : Word) (v : Byte) (s : State) (h : isMmuRegister va = false) :
    (writeByte va v s).mmu = s.mmu := by
  cases hio : inIo va
  · cases hr : s.ramAt va with
    | none => rw [writeByte_discarded v hio hr]
    | some q => rw [writeByte_ram v hr]; rfl
  · rw [writeByte_io v s hio, mmuControlWrite_other v _ h, deviceWrite_frame]
    rfl

end Sys2Proof.Machine
end

