-- ==== Sys2Proof/Laws/Words.lean ====
section
/-! SUPPORT. Words and their bytes (R7, R10). -/

namespace Sys2Proof.Machine

theorem toNat_word (hi lo : Byte) : (word hi lo).toNat = hi.toNat * 256 + lo.toNat := by
  unfold word
  rw [BitVec.toNat_append, Nat.shiftLeft_eq, ← Nat.mul_comm (2 ^ 8), ← Nat.two_pow_add_eq_or_of_lt lo.isLt]

theorem toNat_hiByte (v : Word) : (hiByte v).toNat = v.toNat / 256 := by
  have := v.isLt
  simp [hiByte, Nat.shiftRight_eq_div_pow]
  omega

theorem toNat_loByte (v : Word) : (loByte v).toNat = v.toNat % 256 := by
  simp [loByte]

@[simp] theorem word_hiByte_loByte (v : Word) : word (hiByte v) (loByte v) = v := by
  apply BitVec.eq_of_toNat_eq
  rw [toNat_word, toNat_hiByte, toNat_loByte]
  omega

@[simp] theorem hiByte_word (hi lo : Byte) : hiByte (word hi lo) = hi := by
  apply BitVec.eq_of_toNat_eq
  rw [toNat_hiByte, toNat_word]
  have := lo.isLt
  omega

@[simp] theorem loByte_word (hi lo : Byte) : loByte (word hi lo) = lo := by
  apply BitVec.eq_of_toNat_eq
  rw [toNat_loByte, toNat_word]
  have := lo.isLt
  omega

@[simp] theorem loByte_zext8 (v : Byte) : loByte (zext8 v) = v := by
  apply BitVec.eq_of_toNat_eq
  rw [toNat_loByte, zext8, BitVec.toNat_setWidth]
  have := v.isLt
  omega

/-- Adding a sign-extended byte is adding its signed value, mod 2^16 (R9). -/
theorem add_sext8 (w : Word) (v : Byte) : w + sext8 v = BitVec.ofInt 16 (w.toNat + v.toInt) := by
  apply BitVec.eq_of_toInt_eq
  have h : (BitVec.signExtend 16 v).toInt = v.toInt := BitVec.toInt_signExtend_of_le (by decide)
  rw [BitVec.toInt_add, sext8, h, BitVec.toInt_ofInt, BitVec.toInt_eq_toNat_bmod]
  simp

/-- Adding a sign-extended 5-bit offset is adding its signed value, mod 2^16 (R9, R212). -/
theorem add_sext5 (w : Word) (v : BitVec 5) : w + sext5 v = BitVec.ofInt 16 (w.toNat + v.toInt) := by
  apply BitVec.eq_of_toInt_eq
  have h : (BitVec.signExtend 16 v).toInt = v.toInt := BitVec.toInt_signExtend_of_le (by decide)
  rw [BitVec.toInt_add, sext5, h, BitVec.toInt_ofInt, BitVec.toInt_eq_toNat_bmod]
  simp

/-- Adding a word is adding its signed value, mod 2^16. -/
theorem add_word (w v : Word) : w + v = BitVec.ofInt 16 (w.toNat + v.toInt) := by
  apply BitVec.eq_of_toInt_eq
  rw [BitVec.toInt_add, BitVec.toInt_ofInt, BitVec.toInt_eq_toNat_bmod]
  simp

end Sys2Proof.Machine
end

