-- ==== Sys2Proof/Laws/Decode.lean ====
section
/-! SUPPORT. The decoder's pieces: register codes and postbytes read back, and a decoded head does not depend on what
follows it. -/

namespace Sys2Proof

open Sys2Proof.Machine

@[simp] theorem IndexReg.ofCode_code (r : IndexReg) : IndexReg.ofCode r.code = r := by
  cases r <;> rfl

@[simp] theorem Reg.ofCode_code (r : Reg) : Reg.ofCode r.code = some r := by
  cases r <;> rfl

/-- A register's code is the only one that names it (R508). -/
theorem Reg.code_of_ofCode {c : BitVec 4} {r : Reg} (h : Reg.ofCode c = some r) : r.code = c := by
  revert r
  revert c
  decide

/-- A pair's postbyte names the pair, where the pair is defined (R172, R509). -/
theorem decodePair_pairByte {r1 r2 : Reg} (h : pairDefined r1 r2 = true) : decodePair (pairByte r1 r2) = some (r1, r2) := by
  revert h
  cases r1 <;> cases r2 <;> decide

/-- More bytes after a decoded head are left over; where the bytes end too early this says nothing (R160). -/
def Decoded.leaving (extra : List Byte) : Decoded → Decoded
  | .instr i rest => .instr i (rest ++ extra)
  | .more => .more
  | .undefinedOpcode op => .undefinedOpcode op
  | .malformedOperand pb => .malformedOperand pb

theorem decodeByte_append {f : Byte → Instr} {bs : List Byte} (extra : List Byte) (h : decodeByte f bs ≠ .more) :
    decodeByte f (bs ++ extra) = (decodeByte f bs).leaving extra := by
  cases bs with
  | nil => exact absurd rfl h
  | cons b rest => rfl

theorem decodeWord_append {f : Word → Instr} {bs : List Byte} (extra : List Byte) (h : decodeWord f bs ≠ .more) :
    decodeWord f (bs ++ extra) = (decodeWord f bs).leaving extra := by
  match bs, h with
  | [], h => exact absurd rfl h
  | [_], h => exact absurd rfl h
  | _ :: _ :: _, _ => rfl

theorem decodeIndexed_append {p : PcrRegBits} {f : Indexed → Instr} {bs : List Byte} (extra : List Byte)
    (h : decodeIndexed p f bs ≠ .more) :
    decodeIndexed p f (bs ++ extra) = (decodeIndexed p f bs).leaving extra := by
  cases bs with
  | nil => exact absurd rfl h
  | cons pb rest =>
    unfold decodeIndexed at h ⊢
    simp only [List.cons_append] at h ⊢
    cases hp : decodePostbyte p pb with
    | done ix => rfl
    | illegal => rfl
    | offset8 g => simp only [hp] at h ⊢; exact decodeByte_append extra h
    | offset16 g => simp only [hp] at h ⊢; exact decodeWord_append extra h

theorem decodePairByte_append {f : Reg → Reg → Instr} {bs : List Byte} (extra : List Byte)
    (h : decodePairByte f bs ≠ .more) :
    decodePairByte f (bs ++ extra) = (decodePairByte f bs).leaving extra := by
  cases bs with
  | nil => exact absurd rfl h
  | cons pb rest =>
    unfold decodePairByte
    simp only [List.cons_append]
    cases decodePair pb with
    | none => rfl
    | some rr => rfl

theorem decodeFormat_append {p : PcrRegBits} {op : Word} {fmt : Option Format} {bs : List Byte} (extra : List Byte)
    (h : decodeFormat p op fmt bs ≠ .more) :
    decodeFormat p op fmt (bs ++ extra) = (decodeFormat p op fmt bs).leaving extra := by
  cases fmt with
  | none => rfl
  | some fmt =>
    cases fmt with
    | inh i => rfl
    | imm8 f => exact decodeByte_append extra h
    | imm16 f => exact decodeWord_append extra h
    | dir f => exact decodeByte_append extra h
    | ext f => exact decodeWord_append extra h
    | idx f => exact decodeIndexed_append extra h
    | pair f => exact decodePairByte_append extra h

/-- What the decoder answers on bytes that hold a whole instruction, or an offending byte, it answers whatever follows
them (R160, R603, R605). -/
theorem decode_append {p : PcrRegBits} {bs : List Byte} (extra : List Byte) (h : decode p bs ≠ .more) :
    decode p (bs ++ extra) = (decode p bs).leaving extra := by
  match bs, h with
  | [], h => exact absurd rfl h
  | [op], h =>
    unfold decode at h ⊢
    simp only [List.cons_append, List.nil_append] at h ⊢
    split
    · next h1 => simp [h1] at h
    · split
      · next h1 h2 => simp [h2] at h
      · next h1 h2 =>
        simp only [h1, h2, if_false] at h
        exact decodeFormat_append extra h
  | op :: op2 :: rest, h =>
    unfold decode at h ⊢
    simp only [List.cons_append] at h ⊢
    split
    · next h1 =>
      rw [if_pos h1] at h
      exact decodeFormat_append extra h
    · next h1 =>
      rw [if_neg h1] at h
      split
      · next h2 =>
        rw [if_pos h2] at h
        exact decodeFormat_append extra h
      · next h2 =>
        rw [if_neg h2] at h
        rw [← List.cons_append]
        exact decodeFormat_append extra h

/-- Bytes that decode with nothing left over are decoded by no shorter run of them. -/
theorem decode_short {p : PcrRegBits} {bs extra : List Byte} {i : Instr} (h : decode p (bs ++ extra) = .instr i [])
    (he : extra ≠ []) : decode p bs = .more := by
  by_contra hc
  rw [decode_append extra hc] at h
  cases hd : decode p bs with
  | instr j rest =>
    rw [hd] at h
    simp only [Decoded.leaving, Decoded.instr.injEq, List.append_eq_nil_iff] at h
    exact he h.2.2
  | more => exact hc hd
  | undefinedOpcode op => rw [hd] at h; cases h
  | malformedOperand pb => rw [hd] at h; cases h

/-- A run of bytes that still lacks some lacks some at every shorter length. -/
theorem decode_more_short {p : PcrRegBits} {bs extra : List Byte} (h : decode p (bs ++ extra) = .more) :
    decode p bs = .more := by
  by_contra hc
  rw [decode_append extra hc] at h
  cases hd : decode p bs with
  | more => exact hc hd
  | instr j rest => rw [hd] at h; cases h
  | undefinedOpcode op => rw [hd] at h; cases h
  | malformedOperand pb => rw [hd] at h; cases h

end Sys2Proof
end

