-- ==== Sys2Proof/Laws/Draws.lean ====
section
/-! SUPPORT. What drawing a flag can do (R12, D4; log entry 9). -/

namespace Sys2Proof.Machine

/-- With `unchanged` the flag and the state are as before; with `draw` the flag is free and one draw more is counted. -/
theorem drawFlag_unchanged {s : State} (h : s.cfg.undefFlags = .unchanged) (old : Bool) : drawFlag old s = (old, s) := by
  rw [drawFlag, h]

theorem drawFlag_draw {s : State} (h : s.cfg.undefFlags = .draw) (old : Bool) :
    drawFlag old s = (Config.freeBit s.draws, { s with draws := s.draws + 1 }) := by
  rw [drawFlag, h]

/-- Drawing a flag changes the count of draws alone. -/
theorem drawFlag_frame (old : Bool) (s : State) : (drawFlag old s).2 = { s with draws := (drawFlag old s).2.draws } := by
  unfold drawFlag
  split
  · rfl
  · rfl

/-- Drawing H changes the count of draws and H alone. -/
theorem drawH_eq (s : State) :
    drawH s = { (drawFlag s.cc.h s).2 with cc := { s.cc with h := (drawFlag s.cc.h s).1 } } := by
  unfold drawH drawFlag
  cases s.cfg.undefFlags <;> rfl

/-- Drawing V changes the count of draws and V alone. -/
theorem drawV_eq (s : State) :
    drawV s = { (drawFlag s.cc.v s).2 with cc := { s.cc with v := (drawFlag s.cc.v s).1 } } := by
  unfold drawV drawFlag
  cases s.cfg.undefFlags <;> rfl

end Sys2Proof.Machine
end

