-- ==== Sys2Proof/Laws/Encodings.lean ====
section
/-! SUPPORT. The three opcode pages beside the encoder: what a page's format makes is well formed and is encoded as the
opcode bytes, then the operand bytes (R163, R175). -/

namespace Sys2Proof

open Sys2Proof.Machine

/-- What a format makes is well formed, and its encoding is `pre` and then the operand bytes. -/
def Format.agrees (pre : List Byte) : Format → Prop
  | .inh i => encode i = pre ∧ i.wf = true
  | .imm8 f => ∀ v, encode (f v) = pre ++ [v] ∧ (f v).wf = true
  | .imm16 f => ∀ v, encode (f v) = pre ++ [hiByte v, loByte v] ∧ (f v).wf = true
  | .dir f => ∀ v, encode (f v) = pre ++ [v] ∧ (f v).wf = true
  | .ext f => ∀ v, encode (f v) = pre ++ [hiByte v, loByte v] ∧ (f v).wf = true
  | .idx f => ∀ ix, encode (f ix) = pre ++ encodeIndexed ix ∧ (f ix).wf = true
  | .pair f => ∀ r1 r2, encode (f r1 r2) = pre ++ [pairByte r1 r2] ∧ (f r1 r2).wf = pairDefined r1 r2

theorem page1_agrees_0 (n : Nat) (h0 : 0 ≤ n) (h1 : n < 16) (f : Format) (h : page1 n = some f) :
    f.agrees [BitVec.ofNat 8 n] := by
  interval_cases n <;> first
    | (cases h; done)
    | (obtain rfl := Option.some.inj h; first | exact ⟨rfl, rfl⟩ | exact fun v => ⟨rfl, rfl⟩ | exact fun v w => ⟨rfl, rfl⟩)

theorem page1_agrees_1 (n : Nat) (h0 : 16 ≤ n) (h1 : n < 32) (f : Format) (h : page1 n = some f) :
    f.agrees [BitVec.ofNat 8 n] := by
  interval_cases n <;> first
    | (cases h; done)
    | (obtain rfl := Option.some.inj h; first | exact ⟨rfl, rfl⟩ | exact fun v => ⟨rfl, rfl⟩ | exact fun v w => ⟨rfl, rfl⟩)

theorem page1_agrees_2 (n : Nat) (h0 : 32 ≤ n) (h1 : n < 48) (f : Format) (h : page1 n = some f) :
    f.agrees [BitVec.ofNat 8 n] := by
  interval_cases n <;> first
    | (cases h; done)
    | (obtain rfl := Option.some.inj h; first | exact ⟨rfl, rfl⟩ | exact fun v => ⟨rfl, rfl⟩ | exact fun v w => ⟨rfl, rfl⟩)

theorem page1_agrees_3 (n : Nat) (h0 : 48 ≤ n) (h1 : n < 64) (f : Format) (h : page1 n = some f) :
    f.agrees [BitVec.ofNat 8 n] := by
  interval_cases n <;> first
    | (cases h; done)
    | (obtain rfl := Option.some.inj h; first | exact ⟨rfl, rfl⟩ | exact fun v => ⟨rfl, rfl⟩ | exact fun v w => ⟨rfl, rfl⟩)

theorem page1_agrees_4 (n : Nat) (h0 : 64 ≤ n) (h1 : n < 80) (f : Format) (h : page1 n = some f) :
    f.agrees [BitVec.ofNat 8 n] := by
  interval_cases n <;> first
    | (cases h; done)
    | (obtain rfl := Option.some.inj h; first | exact ⟨rfl, rfl⟩ | exact fun v => ⟨rfl, rfl⟩ | exact fun v w => ⟨rfl, rfl⟩)

theorem page1_agrees_5 (n : Nat) (h0 : 80 ≤ n) (h1 : n < 96) (f : Format) (h : page1 n = some f) :
    f.agrees [BitVec.ofNat 8 n] := by
  interval_cases n <;> first
    | (cases h; done)
    | (obtain rfl := Option.some.inj h; first | exact ⟨rfl, rfl⟩ | exact fun v => ⟨rfl, rfl⟩ | exact fun v w => ⟨rfl, rfl⟩)

theorem page1_agrees_6 (n : Nat) (h0 : 96 ≤ n) (h1 : n < 112) (f : Format) (h : page1 n = some f) :
    f.agrees [BitVec.ofNat 8 n] := by
  interval_cases n <;> first
    | (cases h; done)
    | (obtain rfl := Option.some.inj h; first | exact ⟨rfl, rfl⟩ | exact fun v => ⟨rfl, rfl⟩ | exact fun v w => ⟨rfl, rfl⟩)

theorem page1_agrees_7 (n : Nat) (h0 : 112 ≤ n) (h1 : n < 128) (f : Format) (h : page1 n = some f) :
    f.agrees [BitVec.ofNat 8 n] := by
  interval_cases n <;> first
    | (cases h; done)
    | (obtain rfl := Option.some.inj h; first | exact ⟨rfl, rfl⟩ | exact fun v => ⟨rfl, rfl⟩ | exact fun v w => ⟨rfl, rfl⟩)

theorem page1_agrees_8 (n : Nat) (h0 : 128 ≤ n) (h1 : n < 144) (f : Format) (h : page1 n = some f) :
    f.agrees [BitVec.ofNat 8 n] := by
  interval_cases n <;> first
    | (cases h; done)
    | (obtain rfl := Option.some.inj h; first | exact ⟨rfl, rfl⟩ | exact fun v => ⟨rfl, rfl⟩ | exact fun v w => ⟨rfl, rfl⟩)

theorem page1_agrees_9 (n : Nat) (h0 : 144 ≤ n) (h1 : n < 160) (f : Format) (h : page1 n = some f) :
    f.agrees [BitVec.ofNat 8 n] := by
  interval_cases n <;> first
    | (cases h; done)
    | (obtain rfl := Option.some.inj h; first | exact ⟨rfl, rfl⟩ | exact fun v => ⟨rfl, rfl⟩ | exact fun v w => ⟨rfl, rfl⟩)

theorem page1_agrees_A (n : Nat) (h0 : 160 ≤ n) (h1 : n < 176) (f : Format) (h : page1 n = some f) :
    f.agrees [BitVec.ofNat 8 n] := by
  interval_cases n <;> first
    | (cases h; done)
    | (obtain rfl := Option.some.inj h; first | exact ⟨rfl, rfl⟩ | exact fun v => ⟨rfl, rfl⟩ | exact fun v w => ⟨rfl, rfl⟩)

theorem page1_agrees_B (n : Nat) (h0 : 176 ≤ n) (h1 : n < 192) (f : Format) (h : page1 n = some f) :
    f.agrees [BitVec.ofNat 8 n] := by
  interval_cases n <;> first
    | (cases h; done)
    | (obtain rfl := Option.some.inj h; first | exact ⟨rfl, rfl⟩ | exact fun v => ⟨rfl, rfl⟩ | exact fun v w => ⟨rfl, rfl⟩)

theorem page1_agrees_C (n : Nat) (h0 : 192 ≤ n) (h1 : n < 208) (f : Format) (h : page1 n = some f) :
    f.agrees [BitVec.ofNat 8 n] := by
  interval_cases n <;> first
    | (cases h; done)
    | (obtain rfl := Option.some.inj h; first | exact ⟨rfl, rfl⟩ | exact fun v => ⟨rfl, rfl⟩ | exact fun v w => ⟨rfl, rfl⟩)

theorem page1_agrees_D (n : Nat) (h0 : 208 ≤ n) (h1 : n < 224) (f : Format) (h : page1 n = some f) :
    f.agrees [BitVec.ofNat 8 n] := by
  interval_cases n <;> first
    | (cases h; done)
    | (obtain rfl := Option.some.inj h; first | exact ⟨rfl, rfl⟩ | exact fun v => ⟨rfl, rfl⟩ | exact fun v w => ⟨rfl, rfl⟩)

theorem page1_agrees_E (n : Nat) (h0 : 224 ≤ n) (h1 : n < 240) (f : Format) (h : page1 n = some f) :
    f.agrees [BitVec.ofNat 8 n] := by
  interval_cases n <;> first
    | (cases h; done)
    | (obtain rfl := Option.some.inj h; first | exact ⟨rfl, rfl⟩ | exact fun v => ⟨rfl, rfl⟩ | exact fun v w => ⟨rfl, rfl⟩)

theorem page1_agrees_F (n : Nat) (h0 : 240 ≤ n) (h1 : n < 256) (f : Format) (h : page1 n = some f) :
    f.agrees [BitVec.ofNat 8 n] := by
  interval_cases n <;> first
    | (cases h; done)
    | (obtain rfl := Option.some.inj h; first | exact ⟨rfl, rfl⟩ | exact fun v => ⟨rfl, rfl⟩ | exact fun v w => ⟨rfl, rfl⟩)

/-- Page 1 (R175, R176). -/
theorem page1_agrees (op : Byte) (f : Format) (h : page1 op.toNat = some f) : f.agrees [op] := by
  have hlt := op.isLt
  have e : [op] = [BitVec.ofNat 8 op.toNat] := by simp
  rw [e]
  have hq : op.toNat / 16 < 16 := by omega
  generalize hk : op.toNat / 16 = k at hq
  interval_cases k
  · exact page1_agrees_0 _ (by omega) (by omega) f h
  · exact page1_agrees_1 _ (by omega) (by omega) f h
  · exact page1_agrees_2 _ (by omega) (by omega) f h
  · exact page1_agrees_3 _ (by omega) (by omega) f h
  · exact page1_agrees_4 _ (by omega) (by omega) f h
  · exact page1_agrees_5 _ (by omega) (by omega) f h
  · exact page1_agrees_6 _ (by omega) (by omega) f h
  · exact page1_agrees_7 _ (by omega) (by omega) f h
  · exact page1_agrees_8 _ (by omega) (by omega) f h
  · exact page1_agrees_9 _ (by omega) (by omega) f h
  · exact page1_agrees_A _ (by omega) (by omega) f h
  · exact page1_agrees_B _ (by omega) (by omega) f h
  · exact page1_agrees_C _ (by omega) (by omega) f h
  · exact page1_agrees_D _ (by omega) (by omega) f h
  · exact page1_agrees_E _ (by omega) (by omega) f h
  · exact page1_agrees_F _ (by omega) (by omega) f h

/-- Page 2 (R175, R177). -/
theorem page2_agrees (op : Byte) (f : Format) (h : page2 op.toNat = some f) : f.agrees [0x10, op] := by
  have e : [(0x10 : Byte), op] = [0x10, BitVec.ofNat 8 op.toNat] := by simp
  rw [e]
  generalize op.toNat = n at h
  unfold page2 at h
  split at h <;> first
    | (cases h; done)
    | (obtain rfl := Option.some.inj h; first | exact ⟨rfl, rfl⟩ | exact fun v => ⟨rfl, rfl⟩)

/-- Page 3 (R175, R177). -/
theorem page3_agrees (op : Byte) (f : Format) (h : page3 op.toNat = some f) : f.agrees [0x11, op] := by
  have e : [(0x11 : Byte), op] = [0x11, BitVec.ofNat 8 op.toNat] := by simp
  rw [e]
  generalize op.toNat = n at h
  unfold page3 at h
  split at h <;> first
    | (cases h; done)
    | (obtain rfl := Option.some.inj h; first | exact ⟨rfl, rfl⟩ | exact fun v => ⟨rfl, rfl⟩)

end Sys2Proof
end

