-- ==== Sys2Proof/Laws/Operands.lean ====
section
/-! SUPPORT. What resolving an operand can do: it moves the index register of an auto form by its amount and changes
nothing else but what `busFrame` lists. -/

namespace Sys2Proof.Machine

theorem resolvedFrame_zero (s : State) (m : State) (h : m = busFrame s m) (δ : IndexReg → Word)
    (hδ : ∀ r, δ r = 0) : m = resolvedFrame δ s m := by
  have e : resolvedFrame δ s m = busFrame s m := by
    simp [resolvedFrame, hδ, busFrame]
  rw [e]
  exact h

/-- A bus-only change after a resolved one is a resolved one. -/
theorem resolvedFrame_trans {δ : IndexReg → Word} {s t r : State} (h1 : t = resolvedFrame δ s t)
    (h2 : r = busFrame t r) : r = resolvedFrame δ s r := by
  rw [h2, h1]
  rfl

theorem deref_frame (ind : Bool) (ea : Word) (s : State) : (deref ind ea s).2 = busFrame s (deref ind ea s).2 := by
  cases ind
  · rfl
  · exact readWord_frame ea s

/-- The resolver of an indexed operand (R210, R213-R216, R228). -/
theorem indexedEA_frame (ix : Indexed) (s : State) :
    (indexedEA ix s).2 = resolvedFrame (indexDelta (.idx ix)) s (indexedEA ix s).2 := by
  cases ix with
  | off5 r n => exact resolvedFrame_zero _ _ rfl _ fun _ => rfl
  | postInc1 r => cases r <;> simp [indexedEA, State.index, State.setIndex, resolvedFrame, busFrame, indexDelta, State.setX,
      State.setY, State.setU, State.setSp]
  | postInc2 r ind =>
    refine resolvedFrame_trans (t := s.setIndex r (s.index r + 2)) ?_ (deref_frame ind _ _)
    cases r <;> simp [State.index, State.setIndex, resolvedFrame, busFrame, indexDelta, State.setX,
      State.setY, State.setU, State.setSp]
  | preDec1 r => cases r <;> simp [indexedEA, State.index, State.setIndex, resolvedFrame, busFrame, indexDelta, State.setX,
      State.setY, State.setU, State.setSp, BitVec.sub_eq_add_neg]
  | preDec2 r ind =>
    refine resolvedFrame_trans (t := s.setIndex r (s.index r - 2)) ?_ (deref_frame ind _ _)
    cases r <;> simp [State.index, State.setIndex, resolvedFrame, busFrame, indexDelta, State.setX,
      State.setY, State.setU, State.setSp, BitVec.sub_eq_add_neg]
  | zero r ind => exact resolvedFrame_zero _ _ (deref_frame ind _ s) _ fun _ => rfl
  | accB r ind => exact resolvedFrame_zero _ _ (deref_frame ind _ s) _ fun _ => rfl
  | accA r ind => exact resolvedFrame_zero _ _ (deref_frame ind _ s) _ fun _ => rfl
  | off8 r n ind => exact resolvedFrame_zero _ _ (deref_frame ind _ s) _ fun _ => rfl
  | off16 r n ind => exact resolvedFrame_zero _ _ (deref_frame ind _ s) _ fun _ => rfl
  | accD r ind => exact resolvedFrame_zero _ _ (deref_frame ind _ s) _ fun _ => rfl
  | pcr8 n ind => exact resolvedFrame_zero _ _ (deref_frame ind _ s) _ fun _ => rfl
  | pcr16 n ind => exact resolvedFrame_zero _ _ (deref_frame ind _ s) _ fun _ => rfl
  | extInd p => exact resolvedFrame_zero _ _ (readWord_frame p s) _ fun _ => rfl

/-- The resolver of a memory operand (R203-R205). -/
theorem effectiveAddress_frame (m : MemOperand) (s : State) :
    (effectiveAddress m s).2 = resolvedFrame (indexDelta m) s (effectiveAddress m s).2 := by
  cases m with
  | dir d => exact resolvedFrame_zero _ _ rfl _ fun _ => rfl
  | ext a => exact resolvedFrame_zero _ _ rfl _ fun _ => rfl
  | idx ix => exact indexedEA_frame ix s

/-- An 8-bit operand, resolved and read (R202, R207). -/
theorem operand8_frame (o : Operand8) (s : State) :
    (operand8 o s).2 = resolvedFrame (indexDelta8 o) s (operand8 o s).2 := by
  cases o with
  | imm v => exact resolvedFrame_zero _ _ rfl _ fun _ => rfl
  | mem m => exact resolvedFrame_trans (effectiveAddress_frame m s) (readByte_frame _ _)

/-- A 16-bit operand, resolved and read (R202, R207). -/
theorem operand16_frame (o : Operand16) (s : State) :
    (operand16 o s).2 = resolvedFrame (indexDelta16 o) s (operand16 o s).2 := by
  cases o with
  | imm v => exact resolvedFrame_zero _ _ rfl _ fun _ => rfl
  | mem m => exact resolvedFrame_trans (effectiveAddress_frame m s) (readWord_frame _ _)

end Sys2Proof.Machine
end

