-- ==== Sys2Proof/Laws/Flags.lean ====
section
/-! SUPPORT. The condition-code register as a byte, and the flag laws in the terms of the spec's text: bits of the
result, carries as comparisons of exact sums, overflow as a signed result out of range. -/

namespace Sys2Proof.Machine

@[simp] theorem CC.ofByte_toByte (cc : CC) : CC.ofByte cc.toByte = cc := by
  obtain ⟨e, f, h, i, n, z, v, c⟩ := cc
  cases e <;> cases f <;> cases h <;> cases i <;> cases n <;> cases z <;> cases v <;> cases c <;> rfl

@[simp] theorem CC.toByte_ofByte (b : Byte) : (CC.ofByte b).toByte = b := by
  revert b
  decide

/-- The bits of CC as a byte are its flags (R60). -/
theorem CC.toByte_bits (cc : CC) :
    cc.toByte.getLsbD 7 = cc.e ∧ cc.toByte.getLsbD 6 = cc.f ∧ cc.toByte.getLsbD 5 = cc.h ∧ cc.toByte.getLsbD 4 = cc.i ∧
    cc.toByte.getLsbD 3 = cc.n ∧ cc.toByte.getLsbD 2 = cc.z ∧ cc.toByte.getLsbD 1 = cc.v ∧ cc.toByte.getLsbD 0 = cc.c := by
  have h := CC.ofByte_toByte cc
  exact ⟨congrArg CC.e h, congrArg CC.f h, congrArg CC.h h, congrArg CC.i h, congrArg CC.n h, congrArg CC.z h,
    congrArg CC.v h, congrArg CC.c h⟩

/-- ANDCC is the bytewise `and` (R321). -/
theorem CC.andByte_eq (cc : CC) (m : Byte) : cc.andByte m = CC.ofByte (cc.toByte &&& m) := by
  obtain ⟨h7, h6, h5, h4, h3, h2, h1, h0⟩ := CC.toByte_bits cc
  simp only [CC.andByte, CC.ofByte, BitVec.getLsbD_and, h7, h6, h5, h4, h3, h2, h1, h0]

/-- ORCC is the bytewise `or` (R322). -/
theorem CC.orByte_eq (cc : CC) (m : Byte) : cc.orByte m = CC.ofByte (cc.toByte ||| m) := by
  obtain ⟨h7, h6, h5, h4, h3, h2, h1, h0⟩ := CC.toByte_bits cc
  simp only [CC.orByte, CC.ofByte, BitVec.getLsbD_or, h7, h6, h5, h4, h3, h2, h1, h0]

namespace Flags

theorem msb8 (r : Byte) : r.msb = r.getLsbD 7 := by simp [BitVec.msb_eq_getLsbD_last]

theorem msb16 (r : Word) : r.msb = r.getLsbD 15 := by simp [BitVec.msb_eq_getLsbD_last]

theorem nz8_eq (r : Byte) (cc : CC) : nz8 r cc = { cc with n := r.getLsbD 7, z := decide (r = 0) } := by
  simp [nz8, msb8, BEq.beq]

theorem nz16_eq (r : Word) (cc : CC) : nz16 r cc = { cc with n := r.getLsbD 15, z := decide (r = 0) } := by
  simp [nz16, msb16, BEq.beq]

/-- The overflow of an addition: operands of one sign, a result of the other (R300). -/
theorem add8_v (a b r : Byte) : (~~~(a ^^^ b) &&& (a ^^^ r)).msb =
    (a.getLsbD 7 == b.getLsbD 7 && r.getLsbD 7 != a.getLsbD 7) := by
  simp only [msb8, BitVec.getLsbD_and, BitVec.getLsbD_not, BitVec.getLsbD_xor]
  cases a.getLsbD 7 <;> cases b.getLsbD 7 <;> cases r.getLsbD 7 <;> rfl

theorem msb_iff8 (a : Byte) : a.msb = decide (128 ≤ a.toNat) := by
  rw [BitVec.msb_eq_decide]

theorem msb_iff16 (a : Word) : a.msb = decide (32768 ≤ a.toNat) := by
  rw [BitVec.msb_eq_decide]

/-- The overflow of a subtraction is a signed difference out of range (R62, R301). -/
theorem sub8_v (a b : Byte) (cin : Bool) :
    ((a ^^^ b) &&& (a ^^^ BitVec.ofInt 8 ((a.toNat : Int) - b.toNat - cin.toNat))).msb =
      decide (a.toInt - b.toInt - cin.toNat < -128 ∨ 127 < a.toInt - b.toInt - cin.toNat) := by
  rw [BitVec.msb_and, BitVec.msb_xor, BitVec.msb_xor, msb_iff8, msb_iff8, msb_iff8]
  have ha := a.isLt
  have hb := b.isLt
  have hc : cin.toNat ≤ 1 := by cases cin <;> decide
  rw [BitVec.toInt_eq_toNat_cond, BitVec.toInt_eq_toNat_cond, BitVec.toNat_ofInt]
  rw [Bool.eq_iff_iff]
  simp only [Bool.and_eq_true, bne_iff_ne, ne_eq, decide_eq_decide, decide_eq_true_eq]
  split <;> split <;> omega

theorem sub16_v (a b : Word) :
    ((a ^^^ b) &&& (a ^^^ BitVec.ofInt 16 ((a.toNat : Int) - b.toNat))).msb =
      decide (a.toInt - b.toInt < -32768 ∨ 32767 < a.toInt - b.toInt) := by
  rw [BitVec.msb_and, BitVec.msb_xor, BitVec.msb_xor, msb_iff16, msb_iff16, msb_iff16]
  have ha := a.isLt
  have hb := b.isLt
  rw [BitVec.toInt_eq_toNat_cond, BitVec.toInt_eq_toNat_cond, BitVec.toNat_ofInt]
  rw [Bool.eq_iff_iff]
  simp only [Bool.and_eq_true, bne_iff_ne, ne_eq, decide_eq_decide, decide_eq_true_eq]
  split <;> split <;> omega

/-- The overflow of a 16-bit addition is a signed sum out of range (R62, R400). -/
theorem add16_v (a b : Word) :
    (~~~(a ^^^ b) &&& (a ^^^ BitVec.ofNat 16 (a.toNat + b.toNat))).msb =
      decide (a.toInt + b.toInt < -32768 ∨ 32767 < a.toInt + b.toInt) := by
  rw [BitVec.msb_and, BitVec.msb_not, BitVec.msb_xor, BitVec.msb_xor, msb_iff16, msb_iff16, msb_iff16]
  have ha := a.isLt
  have hb := b.isLt
  rw [BitVec.toInt_eq_toNat_cond, BitVec.toInt_eq_toNat_cond, BitVec.toNat_ofNat]
  rw [show (2 : Nat) ^ 16 = 65536 from rfl]
  by_cases h1 : 32768 ≤ a.toNat <;> by_cases h2 : 32768 ≤ b.toNat <;>
    by_cases h3 : 32768 ≤ (a.toNat + b.toNat) % 65536 <;> simp [h1, h2, h3] <;> omega

end Flags

end Sys2Proof.Machine
end

