-- ==== Sys2Proof/Laws/Registers.lean ====
section
/-! SUPPORT. Reading and writing the registers EXG and TFR name (R53, R508). -/

namespace Sys2Proof.Machine

theorem State.d_setD (s : State) (v : Word) : (s.setD v).d = v := word_hiByte_loByte v

/-- A 16-bit register written reads as the word. -/
theorem reg_setReg_word (s : State) (r : Reg) (v : Word) (h : r.isWord = true) : (s.setReg r v).reg r = v := by
  cases r with
  | d => exact State.d_setD s v
  | a | b | cc | dp => cases h
  | _ => rfl

/-- An 8-bit register written reads as the low byte. -/
theorem reg_setReg_byte (s : State) (r : Reg) (v : Byte) (h : r.isWord = false) :
    (s.setReg r (zext8 v)).reg r = zext8 v := by
  cases r <;> first | exact absurd h (by decide) | simp [State.setReg, State.reg]

/-- An 8-bit register reads as a byte. -/
theorem reg_byte (s : State) (r : Reg) (h : r.isWord = false) : ∃ v, s.reg r = zext8 v := by
  cases r with
  | a | b | cc | dp => exact ⟨_, rfl⟩
  | _ => cases h

/-- A register written reads as what another of its width read as. -/
theorem reg_setReg_same (s t : State) (r q : Reg) (h : q.isWord = r.isWord) : (s.setReg r (t.reg q)).reg r = t.reg q := by
  cases hr : r.isWord
  · obtain ⟨v, hv⟩ := reg_byte t q (h.trans hr)
    rw [hv]
    exact reg_setReg_byte s r v hr
  · exact reg_setReg_word s r _ hr

/-- A register that shares no storage with the one written keeps its value. -/
theorem reg_setReg_other (s : State) (r q : Reg) (v : Word) (h : sharesStorage q r = false) :
    (s.setReg r v).reg q = s.reg q := by
  cases r <;> cases q <;> first | rfl | exact absurd h (by decide)

/-- Two registers of one width share storage only where they are the same. -/
theorem sharesStorage_sameWidth (q r : Reg) (hw : q.isWord = r.isWord) (h : q ≠ r) : sharesStorage q r = false := by
  cases q <;> cases r <;> first | rfl | exact absurd hw (by decide) | exact absurd rfl h

/-- A register of EXG and TFR written changes the register file alone. -/
theorem setReg_frame (s : State) (r : Reg) (v : Word) :
    s.setReg r v = { s with
      a := (s.setReg r v).a, b := (s.setReg r v).b, x := (s.setReg r v).x, y := (s.setReg r v).y, u := (s.setReg r v).u
      sp := (s.setReg r v).sp, pc := (s.setReg r v).pc, dp := (s.setReg r v).dp, cc := (s.setReg r v).cc } := by
  cases r <;> rfl

end Sys2Proof.Machine
end

