-- ==== Sys2Proof/Laws/Stack.lean ====
section
/-! SUPPORT. What storing a run of bytes from one end to the other can do, and the push operations in those terms. -/

namespace Sys2Proof.Machine

/-! ### Where a run of bytes lies in RAM -/

/-- The physical address of a RAM byte keeps the low thirteen bits of the virtual one (R120, R122). -/
theorem ramAt_offset {s : State} {va : Word} {pa : Nat} (h : s.ramAt va = some pa) : pa % 8192 = va.toNat % 8192 := by
  unfold State.ramAt at h
  split at h
  · cases h
  · split at h
    · cases h
    · cases h
      have hlt := (va.extractLsb' 0 13).isLt
      rw [State.translate, BitVec.toNat_append, Nat.shiftLeft_eq, ← Nat.mul_comm (2 ^ 13),
        ← Nat.two_pow_add_eq_or_of_lt hlt, BitVec.extractLsb'_toNat]
      omega

/-- The MMU's state decides where a virtual address reaches RAM (R121, R122, R125). -/
theorem ramAt_mmu {s t : State} (h : s.mmu = t.mmu) (va : Word) : s.ramAt va = t.ramAt va := by
  simp only [State.mmu, Prod.mk.injEq] at h
  obtain ⟨h1, h2, h3, -, h5, h6⟩ := h
  have e : ∀ p, s.activePar p = t.activePar p := by
    intro p
    unfold State.activePar
    rw [h1, h2, h5, h6]
  have hp : s.physPage va = t.physPage va := by rw [State.physPage, e, ← State.physPage]
  have ho : s.overlaid va = t.overlaid va := by rw [State.overlaid, h3, hp, ← State.overlaid]
  have ht : s.translate va = t.translate va := by rw [State.translate, hp, ← State.translate]
  unfold State.ramAt
  rw [ho, ht]

theorem ramAt_low {s : State} {va : Word} {pa : Nat} (h : s.ramAt va = some pa) : va.toNat < Config.ioBase := by
  unfold State.ramAt at h
  split at h
  · cases h
  · omega

theorem isMmuRegister_high {va : Word} (h : isMmuRegister va = true) : 0xFF90 ≤ va.toNat ∧ va.toNat ≤ 0xFFDF := by
  simp only [isMmuRegister, isPar, Bool.or_eq_true, Bool.and_eq_true, decide_eq_true_eq] at h
  rcases h with (((h | h) | h) | h) | h
  · subst h; decide
  · subst h; decide
  · omega
  · subst h; decide
  · subst h; decide

theorem reaches_mmu {s t : State} (h : s.mmu = t.mmu) (va : Word) (pa n : Nat) : s.reaches va pa n = t.reaches va pa n := by
  induction n generalizing va with
  | zero => rfl
  | succ n ih => simp only [State.reaches, ramAt_mmu h, ih]

theorem ramRun_avoids {s : State} {va : Word} {n : Nat} (h : s.ramRun va n = true) : avoidsMmu va n = true := by
  induction n generalizing va with
  | zero => rfl
  | succ n ih =>
    simp only [State.ramRun, Bool.and_eq_true] at h
    obtain ⟨pa, hp⟩ := Option.isSome_iff_exists.mp h.1
    have := ramAt_low hp
    simp only [avoidsMmu, ih h.2, Bool.and_true, Bool.not_eq_true']
    cases hm : isMmuRegister va
    · rfl
    · have := isMmuRegister_high hm
      unfold Config.ioBase at *
      omega

/-- A RAM byte just below a run of fewer than 8192 bytes is none of the run's bytes (R122). -/
theorem reaches_below {s : State} {va : Word} {pa n : Nat} (h : s.ramAt va = some pa) (j : Nat)
    (hn : j + n < 8191) : s.reaches (va + 1 + BitVec.ofNat 16 j) pa n = false := by
  induction n generalizing j with
  | zero => rfl
  | succ n ih =>
    have e : va + 1 + BitVec.ofNat 16 j + 1 = va + 1 + BitVec.ofNat 16 (j + 1) := by
      apply BitVec.eq_of_toNat_eq
      simp
      omega
    simp only [State.reaches, e, ih (j + 1) (by omega), Bool.or_false, beq_eq_false_iff_ne, ne_eq]
    intro h2
    have o1 := ramAt_offset h
    have o2 := ramAt_offset h2
    rw [BitVec.toNat_add, BitVec.toNat_add, BitVec.toNat_ofNat] at o2
    have : (1 : Word).toNat = 1 := rfl
    rw [this] at o2
    omega

/-- A byte written elsewhere leaves the bytes of a run as they are (R111). -/
theorem ramBytes_write (s : State) (va : Word) (pa : Nat) (v : Byte) (n : Nat) (h : s.reaches va pa n = false) :
    State.ramBytes { s with ram := s.ram.write pa v } va n = s.ramBytes va n := by
  induction n generalizing va with
  | zero => rfl
  | succ n ih =>
    simp only [State.reaches, Bool.or_eq_false_iff, beq_eq_false_iff_ne, ne_eq] at h
    simp only [State.ramBytes, ih _ h.2]
    have e : State.ramByte { s with ram := s.ram.write pa v } va = s.ramByte va := by
      show (s.ramAt va).map (Memory.read (s.ram.write pa v)) = (s.ramAt va).map s.ram.read
      cases hr : s.ramAt va with
      | none => rfl
      | some q =>
        have : pa ≠ q := fun e => h.1 (by rw [hr, e])
        simp [Memory.read_write, this]
    rw [e]

/-! ### A run stored from the top down -/

/-- Registers and ROM of `r`, memory, MMU and bus of `m`. -/
def onto (r m : State) : State := storeFrame (busFrame r m) m

theorem onto_self (s : State) : onto s s = s := rfl

/-- A write sees the memory, the MMU and the bus alone (R111). -/
theorem writeByte_onto (va : Word) (v : Byte) (r m : State) :
    writeByte va v (onto r m) = onto r (writeByte va v m) := by
  cases hio : inIo va
  · cases h : m.ramAt va with
    | none =>
      have h2 : (onto r m).ramAt va = none := h
      rw [writeByte_discarded v hio h, writeByte_discarded v hio h2]
    | some pa =>
      have h2 : (onto r m).ramAt va = some pa := h
      rw [writeByte_ram v h, writeByte_ram v h2]
      rfl
  · rw [writeByte_io v _ hio, writeByte_io v _ hio]
    have hd : deviceWrite va v (onto r m) = onto r (deviceWrite va v m) := by
      obtain ⟨answers, h⟩ : ∃ answers, m.deviceAnswers = answers := ⟨_, rfl⟩
      have h2 : (onto r m).deviceAnswers = answers := h
      cases answers <;> simp only [deviceWrite, State.record_deviceAnswers, h, h2] <;> rfl
    rw [hd]
    unfold mmuControlWrite
    repeat' split
    all_goals rfl

theorem writeWord_onto (va v : Word) (r m : State) : writeWord va v (onto r m) = onto r (writeWord va v m) := by
  simp only [writeWord, writeByte_onto]

/-- What storing `bytes` from `base` on makes of `s`, the writes made from the top down. -/
def runStored (base : Word) (bytes : List Byte) (s m : State) : Prop :=
  (avoidsMmu base bytes.length = true → m.mmu = s.mmu ∧
    ∀ pa, s.reaches base pa bytes.length = false → m.ram.read pa = s.ram.read pa) ∧
  (s.ramRun base bytes.length = true → busFrame m s = m ∧ m.ramBytes base bytes.length = bytes.map some) ∧
  ((∀ k < bytes.length, Config.ioBase ≤ (base + BitVec.ofNat 16 k).toNat) → m.ram = s.ram)

theorem runStored_nil (base : Word) (s : State) : runStored base [] s s :=
  ⟨fun _ => ⟨rfl, fun _ _ => rfl⟩, fun _ => ⟨rfl, rfl⟩, fun _ => rfl⟩

theorem writeByte_ram_high {va : Word} (v : Byte) (s : State) (h : Config.ioBase ≤ va.toNat) :
    (writeByte va v s).ram = s.ram := by
  cases hio : inIo va
  · rw [writeByte_discarded v hio]
    simp [State.ramAt, h]
  · rw [writeByte_io v s hio, mmuControlWrite_frame, deviceWrite_frame]
    rfl

theorem sub_one_add_one (b : Word) : b - 1 + 1 = b := BitVec.sub_add_cancel b 1

/-- One byte more below a stored run. -/
theorem runStored_byte {base : Word} {bytes : List Byte} {s m : State} (v : Byte) (h : runStored base bytes s m)
    (hn : bytes.length < 8191) : runStored (base - 1) (v :: bytes) s (writeByte (base - 1) v m) := by
  obtain ⟨h1, h2, h3⟩ := h
  refine ⟨fun ha => ?_, fun hr => ?_, fun hh => ?_⟩
  · simp only [List.length_cons, avoidsMmu, sub_one_add_one, Bool.and_eq_true, Bool.not_eq_true'] at ha
    obtain ⟨hm, hram⟩ := h1 ha.2
    refine ⟨by rw [writeByte_mmu _ _ _ ha.1, hm], fun pa hpa => ?_⟩
    simp only [List.length_cons, State.reaches, sub_one_add_one, Bool.or_eq_false_iff, beq_eq_false_iff_ne, ne_eq] at hpa
    rw [writeByte_ram_other _ _ _ _ (by rw [ramAt_mmu hm]; exact hpa.1), hram pa hpa.2]
  · have hav := ramRun_avoids hr
    simp only [List.length_cons, avoidsMmu, sub_one_add_one, Bool.and_eq_true, Bool.not_eq_true'] at hav
    simp only [List.length_cons, State.ramRun, sub_one_add_one, Bool.and_eq_true] at hr
    obtain ⟨pa, hp⟩ := Option.isSome_iff_exists.mp hr.1
    have hm := (h1 hav.2).1
    have hp' : m.ramAt (base - 1) = some pa := by rw [ramAt_mmu hm]; exact hp
    obtain ⟨hb, hbytes⟩ := h2 hr.2
    rw [writeByte_ram v hp']
    refine ⟨?_, ?_⟩
    · rw [← hb]
      rfl
    · have hrch : m.reaches base pa bytes.length = false := by
        have := reaches_below hp' 0 (n := bytes.length) (by omega)
        simpa [sub_one_add_one] using this
      simp only [List.length_cons, State.ramBytes, sub_one_add_one, List.map_cons, ramBytes_write _ _ _ _ _ hrch, hbytes]
      have e : State.ramByte { m with ram := m.ram.write pa v } (base - 1) = some v := by
        show (m.ramAt (base - 1)).map (Memory.read (m.ram.write pa v)) = some v
        rw [hp']
        simp [Memory.read_write]
      rw [e]
  · have h0 := hh 0 (by simp)
    rw [writeByte_ram_high _ _ (by simpa using h0)]
    refine h3 fun k hk => ?_
    have := hh (k + 1) (by simpa using hk)
    have e : base - 1 + BitVec.ofNat 16 (k + 1) = base + BitVec.ofNat 16 k := by
      rw [show BitVec.ofNat 16 (k + 1) = 1 + BitVec.ofNat 16 k from by
        apply BitVec.eq_of_toNat_eq; simp; omega, ← BitVec.add_assoc, sub_one_add_one]
    rwa [e] at this

theorem sub_two_add_one (b : Word) : b - 2 + 1 = b - 1 := by
  apply BitVec.eq_of_toNat_eq
  simp [BitVec.toNat_add, BitVec.toNat_sub]
  omega

/-- One word more below a stored run, its high byte at the lower address and written first (R104). -/
theorem runStored_word {base : Word} {bytes : List Byte} {s m : State} (w : Word) (h : runStored base bytes s m)
    (hn : bytes.length < 8190) :
    runStored (base - 2) (hiByte w :: loByte w :: bytes) s (writeWord (base - 2) w m) := by
  obtain ⟨h1, h2, h3⟩ := h
  unfold writeWord
  rw [sub_two_add_one]
  refine ⟨fun ha => ?_, fun hr => ?_, fun hh => ?_⟩
  · simp only [List.length_cons, avoidsMmu, sub_two_add_one, sub_one_add_one, Bool.and_eq_true, Bool.not_eq_true'] at ha
    obtain ⟨ha2, ha1, hav⟩ := ha
    obtain ⟨hm, hram⟩ := h1 hav
    have hm2 : (writeByte (base - 2) (hiByte w) m).mmu = s.mmu := by rw [writeByte_mmu _ _ _ ha2, hm]
    refine ⟨by rw [writeByte_mmu _ _ _ ha1, hm2], fun pa hpa => ?_⟩
    simp only [List.length_cons, State.reaches, sub_two_add_one, sub_one_add_one, Bool.or_eq_false_iff,
      beq_eq_false_iff_ne, ne_eq] at hpa
    rw [writeByte_ram_other _ _ _ _ (by rw [ramAt_mmu hm2]; exact hpa.2.1),
      writeByte_ram_other _ _ _ _ (by rw [ramAt_mmu hm]; exact hpa.1), hram pa hpa.2.2]
  · have hav := ramRun_avoids hr
    simp only [List.length_cons, avoidsMmu, sub_two_add_one, sub_one_add_one, Bool.and_eq_true, Bool.not_eq_true'] at hav
    simp only [List.length_cons, State.ramRun, sub_two_add_one, sub_one_add_one, Bool.and_eq_true] at hr
    obtain ⟨p2, hp2⟩ := Option.isSome_iff_exists.mp hr.1
    obtain ⟨p1, hp1⟩ := Option.isSome_iff_exists.mp hr.2.1
    have hm := (h1 hav.2.2).1
    rw [← ramAt_mmu hm] at hp1 hp2
    obtain ⟨hb, hbytes⟩ := h2 hr.2.2
    have hp1' : State.ramAt { m with ram := m.ram.write p2 (hiByte w) } (base - 1) = some p1 := hp1
    rw [writeByte_ram _ hp2, writeByte_ram _ hp1']
    have hr1 : m.reaches base p1 bytes.length = false := by
      have := reaches_below hp1 0 (n := bytes.length) (by omega)
      simpa [sub_one_add_one] using this
    have hr2 : m.reaches (base - 1) p2 (bytes.length + 1) = false := by
      have := reaches_below hp2 0 (n := bytes.length + 1) (by omega)
      have e : base - 2 + 1 + BitVec.ofNat 16 0 = base - 1 := by
        rw [sub_two_add_one]
        exact BitVec.add_zero _
      rwa [e] at this
    simp only [State.reaches, sub_one_add_one, Bool.or_eq_false_iff, beq_eq_false_iff_ne, ne_eq] at hr2
    have hne : p1 ≠ p2 := fun e => hr2.1 (by rw [hp1, e])
    refine ⟨?_, ?_⟩
    · rw [← hb]
      rfl
    · simp only [List.length_cons, State.ramBytes, sub_two_add_one, sub_one_add_one, List.map_cons]
      rw [← hbytes]
      have e2 : State.ramByte { m with ram := (m.ram.write p2 (hiByte w)).write p1 (loByte w) } (base - 2) =
          some (hiByte w) := by
        show (m.ramAt (base - 2)).map (Memory.read ((m.ram.write p2 (hiByte w)).write p1 (loByte w))) = some (hiByte w)
        rw [hp2]
        simp [Memory.read_write, hne]
      have e1 : State.ramByte { m with ram := (m.ram.write p2 (hiByte w)).write p1 (loByte w) } (base - 1) =
          some (loByte w) := by
        show (m.ramAt (base - 1)).map (Memory.read ((m.ram.write p2 (hiByte w)).write p1 (loByte w))) = some (loByte w)
        rw [hp1]
        simp [Memory.read_write]
      have e0 : State.ramBytes { m with ram := (m.ram.write p2 (hiByte w)).write p1 (loByte w) } base bytes.length =
          m.ramBytes base bytes.length := by
        have a := ramBytes_write { m with ram := m.ram.write p2 (hiByte w) } base p1 (loByte w) bytes.length
          (by rw [← hr1]; exact reaches_mmu (s := { m with ram := m.ram.write p2 (hiByte w) }) (t := m) rfl _ _ _)
        have b := ramBytes_write m base p2 (hiByte w) bytes.length hr2.2
        rw [← b]
        exact a
      exact congrArg₂ List.cons e2 (congrArg₂ List.cons e1 e0)
  · have g2 : Config.ioBase ≤ (base - 2).toNat := by
      have := hh 0 (by simp)
      simpa using this
    have g1 : Config.ioBase ≤ (base - 1).toNat := by
      have := hh 1 (by simp)
      rw [show BitVec.ofNat 16 1 = (1 : Word) from rfl, sub_two_add_one] at this
      exact this
    rw [writeByte_ram_high _ _ g1, writeByte_ram_high _ _ g2]
    refine h3 fun k hk => ?_
    have := hh (k + 2) (by simpa using hk)
    have e : base - 2 + BitVec.ofNat 16 (k + 2) = base + BitVec.ofNat 16 k := by
      apply BitVec.eq_of_toNat_eq
      simp [BitVec.toNat_add, BitVec.toNat_sub]
      omega
    rwa [e] at this

/-- A stored run in the terms of Safety, its memory clause for every run of up to two bytes. -/
theorem storesRun_of_runStored {base : Word} {bytes : List Byte} {s m : State} (h : runStored base bytes s m) :
    storesRun base bytes s m := by
  obtain ⟨h1, h2, h3⟩ := h
  refine ⟨fun hc => ?_, fun ha => (h1 ha).1, h2⟩
  by_cases ha : avoidsMmu base bytes.length = true
  · exact (h1 ha).2
  · have hlen := hc.resolve_right ha
    intro pa _
    rw [h3]
    intro k hk
    have hmmu : ∀ va : Word, isMmuRegister va = true → 0xFF90 ≤ va.toNat ∧ va.toNat ≤ 0xFFDF := fun _ => isMmuRegister_high
    match hl : bytes.length with
    | 0 => omega
    | 1 =>
      rw [hl] at ha
      have := hmmu base (by simpa [avoidsMmu] using ha)
      obtain rfl : k = 0 := by omega
      simp [Config.ioBase]
      omega
    | 2 =>
      rw [hl] at ha
      have hor : isMmuRegister base = true ∨ isMmuRegister (base + 1) = true := by
        by_contra hcon
        apply ha
        simp only [not_or, Bool.not_eq_true] at hcon
        simp only [avoidsMmu, hcon.1, hcon.2, Bool.not_false, Bool.and_true]
      have hb : 0xFF8F ≤ base.toNat ∧ base.toNat ≤ 0xFFDF := by
        rcases hor with h | h
        · have := hmmu _ h; omega
        · have := hmmu _ h
          rw [BitVec.toNat_add] at this
          have e : (1 : Word).toNat = 1 := rfl
          omega
      rw [BitVec.toNat_add, BitVec.toNat_ofNat]
      unfold Config.ioBase
      omega
    | n + 3 => omega

/-- A stored run is about memory, MMU and bus alone. -/
theorem storesRun_onto {base : Word} {bytes : List Byte} {s m : State} (r : State) (h : storesRun base bytes s m) :
    storesRun base bytes s (onto r m) := by
  obtain ⟨h1, h2, h3⟩ := h
  refine ⟨h1, h2, fun hr => ⟨?_, ?_⟩⟩
  · obtain ⟨hb, -⟩ := h3 hr
    show busFrame (onto r m) s = onto r m
    rw [show onto r m = onto r (busFrame m s) by rw [hb]]
    rfl
  · obtain ⟨-, hb⟩ := h3 hr
    rw [← hb]
    have : ∀ va n, (onto r m).ramBytes va n = m.ramBytes va n := by
      intro va n
      induction n generalizing va with
      | zero => rfl
      | succ n ih => simp only [State.ramBytes, ih]; rfl
    exact this _ _

/-- The same of any state with that memory, MMU and bus. -/
theorem storesRun_of_eq {base : Word} {bytes : List Byte} {s m t : State} (h : storesRun base bytes s m)
    (ht : onto t m = t) : storesRun base bytes s t := ht ▸ storesRun_onto t h

/-! ### The push operations -/

theorem push8_onto (k : StackPtr) (v : Byte) (r m : State) :
    push8 k v (onto r m) = onto (r.setStack k (r.stack k - 1)) (writeByte (r.stack k - 1) v m) := by
  cases k
  · exact writeByte_onto (r.sp - 1) v (r.setSp (r.sp - 1)) m
  · exact writeByte_onto (r.u - 1) v (r.setU (r.u - 1)) m

theorem push16_onto (k : StackPtr) (v : Word) (r m : State) :
    push16 k v (onto r m) = onto (r.setStack k (r.stack k - 2)) (writeWord (r.stack k - 2) v m) := by
  cases k
  · exact writeWord_onto (r.sp - 2) v (r.setSp (r.sp - 2)) m
  · exact writeWord_onto (r.u - 2) v (r.setU (r.u - 2)) m

end Sys2Proof.Machine
end

