-- ==== Sys2Proof/Laws/Exceptions.lean ====
section
/-! SUPPORT. What pushing a mask or a frame and taking an exception can do: a run of bytes stored from the stack pointer
down, the stack pointer moved, and the registers the exception sets. -/

namespace Sys2Proof.Machine

/-- A state reached by pushes alone: registers of `s` but for the stack pointer at `base`, `bytes` stored from there. -/
def pushed (k : StackPtr) (base : Word) (bytes : List Byte) (s t : State) : Prop :=
  ∃ m, t = onto (s.setStack k base) m ∧ runStored base bytes s m

theorem pushed_nil (k : StackPtr) (s : State) : pushed k (s.stack k) [] s s := by
  refine ⟨s, ?_, runStored_nil _ s⟩
  cases k <;> rfl

theorem setStack_setStack (k : StackPtr) (v w : Word) (s : State) : (s.setStack k v).setStack k w = s.setStack k w := by
  cases k <;> rfl

theorem stack_setStack (k : StackPtr) (v : Word) (s : State) : (s.setStack k v).stack k = v := by
  cases k <;> rfl

theorem pushed_push8 {k : StackPtr} {base : Word} {bytes : List Byte} {s t : State} (v : Byte)
    (h : pushed k base bytes s t) (hn : bytes.length < 8190) : pushed k (base - 1) (v :: bytes) s (push8 k v t) := by
  obtain ⟨m, rfl, hm⟩ := h
  refine ⟨writeByte (base - 1) v m, ?_, runStored_byte v hm (by omega)⟩
  rw [push8_onto, stack_setStack, setStack_setStack]

theorem pushed_push16 {k : StackPtr} {base : Word} {bytes : List Byte} {s t : State} (v : Word)
    (h : pushed k base bytes s t) (hn : bytes.length < 8190) :
    pushed k (base - 2) (hiByte v :: loByte v :: bytes) s (push16 k v t) := by
  obtain ⟨m, rfl, hm⟩ := h
  refine ⟨writeWord (base - 2) v m, ?_, runStored_word v hm hn⟩
  rw [push16_onto, stack_setStack, setStack_setStack]

/-- What pushes leave of the registers. -/
theorem pushed_regs {k : StackPtr} {base : Word} {bytes : List Byte} {s t : State} (h : pushed k base bytes s t) :
    t.pc = s.pc ∧ t.y = s.y ∧ t.x = s.x ∧ t.dp = s.dp ∧ t.b = s.b ∧ t.a = s.a ∧ t.cc = s.cc ∧
      t.stack k.other = s.stack k.other ∧ t.sysRom = s.sysRom := by
  obtain ⟨m, rfl, -⟩ := h
  cases k <;> exact ⟨rfl, rfl, rfl, rfl, rfl, rfl, rfl, rfl, rfl⟩

/-- `n` bytes pushed below `b`. -/
def pushedBelow (k : StackPtr) (b : Word) (n : Nat) (bytes : List Byte) (s t : State) : Prop :=
  bytes.length = n ∧ pushed k (b - BitVec.ofNat 16 n) bytes s t

/-- One register of a mask, a byte wide. -/
theorem pushed_if8 {k : StackPtr} {n : Nat} {b : Word} {bytes : List Byte} {s t : State} (c : Bool) {v w : Byte}
    (hw : w = v) (h : pushedBelow k b n bytes s t) (hn : n < 8190) :
    pushedBelow k b (n + c.toNat) ((if c then [v] else []) ++ bytes) s (if c then push8 k w t else t) := by
  obtain ⟨hl, h⟩ := h
  cases c
  · exact ⟨hl, h⟩
  · have e : b - BitVec.ofNat 16 (n + 1) = b - BitVec.ofNat 16 n - 1 := by
      apply BitVec.eq_of_toNat_eq
      simp [BitVec.toNat_sub]
      omega
    refine ⟨congrArg (· + 1) hl, ?_⟩
    rw [show (true : Bool).toNat = 1 from rfl, e, hw]
    exact pushed_push8 v h (hl ▸ hn)

/-- One register of a mask, a word wide. -/
theorem pushed_if16 {k : StackPtr} {n : Nat} {b : Word} {bytes : List Byte} {s t : State} (c : Bool) {v w : Word}
    (hw : w = v) (h : pushedBelow k b n bytes s t) (hn : n < 8190) :
    pushedBelow k b (n + 2 * c.toNat) ((if c then [hiByte v, loByte v] else []) ++ bytes) s
      (if c then push16 k w t else t) := by
  obtain ⟨hl, h⟩ := h
  cases c
  · exact ⟨hl, h⟩
  · have e : b - BitVec.ofNat 16 (n + 2) = b - BitVec.ofNat 16 n - 2 := by
      apply BitVec.eq_of_toNat_eq
      simp [BitVec.toNat_sub]
      omega
    refine ⟨congrArg (· + 2) hl, ?_⟩
    rw [show 2 * (true : Bool).toNat = 2 from rfl, e, hw]
    exact pushed_push16 v h (hl ▸ hn)

theorem pushedBelow_nil (k : StackPtr) (s : State) : pushedBelow k (s.stack k) 0 [] s s := by
  refine ⟨rfl, ?_⟩
  rw [show s.stack k - BitVec.ofNat 16 0 = s.stack k from BitVec.sub_zero _]
  exact pushed_nil k s

/-- A push mask stores the selected registers and moves the stack pointer down by the bytes moved (R503, R504, R506). -/
theorem pushMask_spec (k : StackPtr) (m : Byte) (s : State) :
    pushedBelow k (s.stack k) (bytesMoved m) (pushedBytes k m s) s (pushMask k m s) := by
  have hb : ∀ b : Bool, b.toNat ≤ 1 := Bool.toNat_le
  have b7 := hb (m.getLsbD 7)
  have b6 := hb (m.getLsbD 6)
  have b5 := hb (m.getLsbD 5)
  have b4 := hb (m.getLsbD 4)
  have b3 := hb (m.getLsbD 3)
  have b2 := hb (m.getLsbD 2)
  have b1 := hb (m.getLsbD 1)
  have h7 := pushed_if16 (m.getLsbD 7) (v := s.pc) rfl (pushedBelow_nil k s) (by omega)
  have h6 := pushed_if16 (m.getLsbD 6) (pushed_regs h7.2).2.2.2.2.2.2.2.1 h7 (by omega)
  have h5 := pushed_if16 (m.getLsbD 5) (pushed_regs h6.2).2.1 h6 (by omega)
  have h4 := pushed_if16 (m.getLsbD 4) (pushed_regs h5.2).2.2.1 h5 (by omega)
  have h3 := pushed_if8 (m.getLsbD 3) (pushed_regs h4.2).2.2.2.1 h4 (by omega)
  have h2 := pushed_if8 (m.getLsbD 2) (pushed_regs h3.2).2.2.2.2.1 h3 (by omega)
  have h1 := pushed_if8 (m.getLsbD 1) (pushed_regs h2.2).2.2.2.2.2.1 h2 (by omega)
  have h0 := pushed_if8 (m.getLsbD 0) (congrArg CC.toByte (pushed_regs h1.2).2.2.2.2.2.2.1) h1 (by omega)
  have hn : 0 + 2 * (m.getLsbD 7).toNat + 2 * (m.getLsbD 6).toNat + 2 * (m.getLsbD 5).toNat + 2 * (m.getLsbD 4).toNat +
      (m.getLsbD 3).toNat + (m.getLsbD 2).toNat + (m.getLsbD 1).toNat + (m.getLsbD 0).toNat = bytesMoved m := by
    unfold bytesMoved
    omega
  rw [hn] at h0
  have e : pushedBytes k m s = (if m.getLsbD 0 then [s.cc.toByte] else []) ++ ((if m.getLsbD 1 then [s.a] else []) ++
      ((if m.getLsbD 2 then [s.b] else []) ++ ((if m.getLsbD 3 then [s.dp] else []) ++
      ((if m.getLsbD 4 then [hiByte s.x, loByte s.x] else []) ++ ((if m.getLsbD 5 then [hiByte s.y, loByte s.y] else []) ++
      ((if m.getLsbD 6 then [hiByte (s.stack k.other), loByte (s.stack k.other)] else []) ++
      ((if m.getLsbD 7 then [hiByte s.pc, loByte s.pc] else []) ++ []))))))) := by
    simp only [pushedBytes, List.append_nil, List.append_assoc]
  rw [e]
  exact h0

theorem pushEntireState_spec (s : State) :
    pushed .s (s.sp - 12) (entireBytes s.cc s) s (pushEntireState s) := by
  have h1 := pushed_push16 s.pc (pushed_nil .s s) (by simp)
  have h2 := pushed_push16 s.u h1 (by simp)
  have h3 := pushed_push16 s.y h2 (by simp)
  have h4 := pushed_push16 s.x h3 (by simp)
  have h5 := pushed_push8 s.dp h4 (by simp)
  have h6 := pushed_push8 s.b h5 (by simp)
  have h7 := pushed_push8 s.a h6 (by simp)
  have h8 := pushed_push8 s.cc.toByte h7 (by simp)
  have e : s.stack .s - 2 - 2 - 2 - 2 - 1 - 1 - 1 - 1 = s.sp - 12 := by
    show s.sp - 2 - 2 - 2 - 2 - 1 - 1 - 1 - 1 = s.sp - 12
    bv_omega
  rw [e] at h8
  have r1 := (pushed_regs h1).2.2.2.2.2.2.2.1
  have r2 := (pushed_regs h2).2.1
  have r3 := (pushed_regs h3).2.2.1
  have r4 := (pushed_regs h4).2.2.2.1
  have r5 := (pushed_regs h5).2.2.2.2.1
  have r6 := (pushed_regs h6).2.2.2.2.2.1
  have r7 := (pushed_regs h7).2.2.2.2.2.2.1
  unfold pushEntireState
  simp only []
  rw [show (push16 .s s.pc s).u = s.u from r1, r2, r3, r4, r5, r6, r7]
  exact h8

/-- The reduced frame of FIRQ (R620). -/
theorem pushReduced_spec (s : State) :
    pushed .s (s.sp - 3) (reducedBytes s.cc s) s (push8 .s (push16 .s s.pc s).cc.toByte (push16 .s s.pc s)) := by
  have h1 := pushed_push16 s.pc (pushed_nil .s s) (by simp)
  have h2 := pushed_push8 s.cc.toByte h1 (by simp)
  have e : s.stack .s - 2 - 1 = s.sp - 3 := by
    show s.sp - 2 - 1 = s.sp - 3
    bv_omega
  rw [e] at h2
  rw [(pushed_regs h1).2.2.2.2.2.2.1]
  exact h2

/-! ### Vectors -/

theorem readByte_inVectors {va : Word} (h : inVectors va = true) (s : State) :
    readByte va s = (s.sysRom.read (0x7FF0 + (va.toNat - Config.vectorBase)), s) := by
  simp [readByte, h]

/-- A vector is read from the top of system ROM and reading it changes nothing (R112, R611). -/
theorem readWord_vector {va : Word} (h : 0xFFF0 ≤ va.toNat) (h2 : va.toNat < 0xFFFF) (s : State) :
    readWord va s = (s.vector va, s) := by
  have e : (va + 1).toNat = va.toNat + 1 := by
    rw [BitVec.toNat_add]
    have : (1 : Word).toNat = 1 := rfl
    omega
  have h1 : inVectors va = true := by simp [inVectors, Config.vectorBase, h]
  have h3 : inVectors (va + 1) = true := by
    unfold inVectors Config.vectorBase
    rw [e]
    exact decide_eq_true (by omega)
  simp only [readWord, readByte_inVectors h1, readByte_inVectors h3, e, State.vector, Config.vectorBase]
  rw [show va.toNat + 1 - 0xFFF0 = va.toNat - 0xFFF0 + 1 by omega, ← Nat.add_assoc]

/-! ### Taking an exception -/

/-- Taking an exception with an entire frame (R502, R551-R553, R619, R621). -/
theorem takeException_entire (setI setF : Bool) {va : Word} (h : 0xFFF0 ≤ va.toNat) (h2 : va.toNat < 0xFFFF) (s : State) :
    ∃ m, takeException .entire setI setF va s = onto { s with
        sp := s.sp - 12, cc := { s.cc with e := true, i := s.cc.i || setI, f := s.cc.f || setF }, pc := s.vector va } m ∧
      runStored (s.sp - 12) (entireBytes { s.cc with e := true } s) s m := by
  obtain ⟨m, hm, hr⟩ := pushEntireState_spec (s.setCC { s.cc with e := true })
  refine ⟨m, ?_, hr⟩
  simp only [takeException, pushFrame, hm, readWord_vector h h2]
  rfl

/-- Taking an exception with the reduced frame of FIRQ (R620). -/
theorem takeException_reduced (setI setF : Bool) {va : Word} (h : 0xFFF0 ≤ va.toNat) (h2 : va.toNat < 0xFFFF) (s : State) :
    ∃ m, takeException .reduced setI setF va s = onto { s with
        sp := s.sp - 3, cc := { s.cc with e := false, i := s.cc.i || setI, f := s.cc.f || setF }, pc := s.vector va } m ∧
      runStored (s.sp - 3) (reducedBytes { s.cc with e := false } s) s m := by
  obtain ⟨m, hm, hr⟩ := pushReduced_spec (s.setCC { s.cc with e := false })
  refine ⟨m, ?_, hr⟩
  simp only [takeException, pushFrame, hm, readWord_vector h h2]
  rfl

/-- Taking an exception whose frame CWAI pushed (R622). -/
theorem takeException_stacked (setI setF : Bool) {va : Word} (h : 0xFFF0 ≤ va.toNat) (h2 : va.toNat < 0xFFFF) (s : State) :
    takeException .stacked setI setF va s =
      { s with cc := { s.cc with i := s.cc.i || setI, f := s.cc.f || setF }, pc := s.vector va } := by
  simp only [takeException, pushFrame, readWord_vector h h2]
  rfl

end Sys2Proof.Machine
end

