-- ==== Sys2Proof/Laws/Pulls.lean ====
section
/-! SUPPORT. What pulling can do: the stack pointer moved up, and what reading the bytes does; from plain memory, exactly
the bytes. -/

namespace Sys2Proof.Machine

/-- Two states that read alike: the same MMU, RAM and ROM. -/
def readsAlike (s t : State) : Prop :=
  t.mmu = s.mmu ∧ t.ram = s.ram ∧ t.sysRom = s.sysRom ∧ t.cartRom = s.cartRom ∧ t.cartSize = s.cartSize

theorem readsAlike_refl (s : State) : readsAlike s s := ⟨rfl, rfl, rfl, rfl, rfl⟩

/-- A plain read reads the same byte in states that read alike (R108). -/
theorem readByte_alike {s t : State} {va : Word} (h : readsAlike s t) (hp : plainRead va s = true) :
    plainRead va t = true ∧ readByte va t = ((readByte va s).1, t) := by
  obtain ⟨hm, hr, hs, hc, hn⟩ := h
  simp only [State.mmu, Prod.mk.injEq] at hm
  obtain ⟨h1, h2, h3, h4, h5, h6⟩ := hm
  have e : ∀ p, t.activePar p = s.activePar p := by
    intro p
    unfold State.activePar
    rw [h1, h2, h5, h6]
  have ep : t.physPage va = s.physPage va := by rw [State.physPage, e, ← State.physPage]
  have eo : t.overlaid va = s.overlaid va := by rw [State.overlaid, h3, ep, ← State.overlaid]
  have et : t.translate va = s.translate va := by rw [State.translate, ep, ← State.translate]
  have ef : t.romOffset va = s.romOffset va := by rw [State.romOffset, ep, ← State.romOffset]
  have ht : plainRead va t = true := by
    rw [← hp]
    simp only [plainRead, eo, ef, h4, hn]
  refine ⟨ht, Prod.ext ?_ (readByte_plain va t ht)⟩
  have hio : inVectors va = true ∨ inIo va = false := by
    unfold plainRead at hp
    cases hv : inVectors va
    · cases hi : inIo va
      · exact Or.inr rfl
      · simp [hv, hi] at hp
    · exact Or.inl rfl
  by_cases hv : inVectors va = true
  · simp [readByte, hv, hs]
  · have hi := hio.resolve_left hv
    by_cases ho : s.overlaid va = true
    · unfold plainRead at hp
      simp only [Bool.not_eq_true] at hv
      simp only [hv, hi, ho, Bool.false_or, Bool.not_false, Bool.true_and, Bool.not_true] at hp
      simp only [readByte, hv, hi, ho, eo, romRead, cartRead, ef, h4, hn, hs, hc, Bool.false_eq_true, if_false, if_true]
      by_cases h3 : s.romMode = 0b11
      · simp only [h3, if_true, decide_eq_true_eq] at hp
        rw [if_pos h3, if_pos h3, if_pos hp, if_pos hp]
      · simp only [h3, if_false, Bool.or_eq_true, decide_eq_true_eq] at hp
        rw [if_neg h3, if_neg h3]
        by_cases h2 : s.romMode = 0b10 ∨ s.romOffset va < 0x4000
        · rw [if_pos h2, if_pos h2]
        · rw [if_neg h2, if_neg h2, if_pos (hp.resolve_left h2), if_pos (hp.resolve_left h2)]
    · simp only [Bool.not_eq_true] at hv ho
      simp only [readByte, hv, hi, ho, eo, et, hr, Bool.false_eq_true, if_false]

/-- The k-th byte of a plain run reads without effect. -/
theorem plainRun_byte {s : State} {va : Word} {n : Nat} (h : s.plainRun va n = true) (k : Nat) (hk : k < n) :
    plainRead (va + BitVec.ofNat 16 k) s = true := by
  induction n generalizing va k with
  | zero => omega
  | succ n ih =>
    simp only [State.plainRun, Bool.and_eq_true] at h
    cases k with
    | zero =>
      have e : va + BitVec.ofNat 16 0 = va := BitVec.add_zero va
      rw [e]
      exact h.1
    | succ k =>
      have e : va + BitVec.ofNat 16 (k + 1) = va + 1 + BitVec.ofNat 16 k := by
        apply BitVec.eq_of_toNat_eq
        simp
        omega
      rw [e]
      exact ih h.2 k (by omega)

/-- Pulling a byte (R501). -/
theorem pull8_frame (k : StackPtr) (s : State) :
    (pull8 k s).2 = (busFrame s (pull8 k s).2).setStack k (s.stack k + 1) := by
  have h := readByte_frame (s.stack k) s
  unfold pull8
  simp only []
  rw [h]
  cases k <;> rfl

/-- Pulling a word (R501). -/
theorem pull16_frame (k : StackPtr) (s : State) :
    (pull16 k s).2 = (busFrame s (pull16 k s).2).setStack k (s.stack k + 2) := by
  have h := readWord_frame (s.stack k) s
  unfold pull16
  simp only []
  rw [h]
  cases k <;> rfl

/-- Pulling a byte of a plain run (R501). -/
theorem pull8_plain {k : StackPtr} {s t : State} {b : Word} {n total : Nat} (hs : readsAlike s t)
    (hk : t.stack k = b + BitVec.ofNat 16 n) (hp : s.plainRun b total = true) (hn : n + 1 ≤ total) :
    pull8 k t = (s.byteAt b n, t.setStack k (b + BitVec.ofNat 16 (n + 1))) := by
  have h := (readByte_alike hs (plainRun_byte hp n (by omega))).2
  have e : b + BitVec.ofNat 16 n + 1 = b + BitVec.ofNat 16 (n + 1) := by
    apply BitVec.eq_of_toNat_eq
    simp
    omega
  unfold pull8
  rw [hk, h]
  simp only [hk, e]
  rfl

/-- Pulling a word of a plain run (R501). -/
theorem pull16_plain {k : StackPtr} {s t : State} {b : Word} {n total : Nat} (hs : readsAlike s t)
    (hk : t.stack k = b + BitVec.ofNat 16 n) (hp : s.plainRun b total = true) (hn : n + 2 ≤ total) :
    pull16 k t = (word (s.byteAt b n) (s.byteAt b (n + 1)), t.setStack k (b + BitVec.ofNat 16 (n + 2))) := by
  have h1 := (readByte_alike hs (plainRun_byte hp n (by omega))).2
  have h2 := (readByte_alike hs (plainRun_byte hp (n + 1) (by omega))).2
  have e : b + BitVec.ofNat 16 n + 1 = b + BitVec.ofNat 16 (n + 1) := by
    apply BitVec.eq_of_toNat_eq
    simp
    omega
  have e2 : b + BitVec.ofNat 16 n + 2 = b + BitVec.ofNat 16 (n + 2) := by
    apply BitVec.eq_of_toNat_eq
    simp
    omega
  unfold pull16 readWord
  rw [hk, h1]
  simp only [e]
  rw [h2]
  simp only [hk, e2]
  rfl

/-- A run of RAM is a plain run (R108). -/
theorem plainRun_of_ramRun {s : State} {va : Word} {n : Nat} (h : s.ramRun va n = true) : s.plainRun va n = true := by
  induction n generalizing va with
  | zero => rfl
  | succ n ih =>
    simp only [State.ramRun, Bool.and_eq_true] at h
    obtain ⟨pa, hp⟩ := Option.isSome_iff_exists.mp h.1
    have hv : inIo va = false := by
      cases hio : inIo va
      · rfl
      · rw [ramAt_inIo hio] at hp; cases hp
    have ho : s.overlaid va = false := by
      cases ho : s.overlaid va
      · rfl
      · unfold State.ramAt at hp
        rw [ho] at hp
        split at hp <;> cases hp
    have hp' : plainRead va s = true := by simp [plainRead, hv, ho]
    simp only [State.plainRun, hp', ih h.2, Bool.and_self]

/-- The bytes of a run of RAM are what its addresses read (R110). -/
theorem byteAt_ramBytes {s : State} {va : Word} {n : Nat} {bytes : List Byte} (hl : bytes.length = n)
    (h : s.ramBytes va n = bytes.map some) (k : Nat) (hk : k < n) : s.byteAt va k = bytes[k] := by
  induction n generalizing va k bytes with
  | zero => omega
  | succ n ih =>
    cases bytes with
    | nil => cases hl
    | cons v bytes =>
      simp only [State.ramBytes, List.map_cons, List.cons.injEq] at h
      cases k with
      | zero =>
        have h0 := h.1
        unfold State.ramByte at h0
        rw [Option.map_eq_some_iff] at h0
        obtain ⟨pa, hp, hv⟩ := h0
        have e : va + BitVec.ofNat 16 0 = va := BitVec.add_zero va
        simp [State.byteAt, e, readByte_ram hp, hv]
      | succ k =>
        have e : va + BitVec.ofNat 16 (k + 1) = va + 1 + BitVec.ofNat 16 k := by
          apply BitVec.eq_of_toNat_eq
          simp
          omega
        have := ih (bytes := bytes) (by simpa using hl) h.2 k (by omega)
        simpa [State.byteAt, e] using this

end Sys2Proof.Machine
end

