-- ==== Sys2Proof/Laws/Service.lean ====
section
/-! SUPPORT. The service point in stages, and what each service does where the stack lies in RAM (R611-R628). -/

namespace Sys2Proof.Machine

theorem ramRun_mmu {s t : State} (h : s.mmu = t.mmu) (va : Word) (n : Nat) : s.ramRun va n = t.ramRun va n := by
  induction n generalizing va with
  | zero => rfl
  | succ n ih => simp only [State.ramRun, ramAt_mmu h, ih]

theorem ramBytes_congr {s t : State} (hm : s.mmu = t.mmu) (hr : s.ram = t.ram) (va : Word) (n : Nat) :
    s.ramBytes va n = t.ramBytes va n := by
  induction n generalizing va with
  | zero => rfl
  | succ n ih => simp only [State.ramBytes, State.ramByte, ih, ramAt_mmu hm, hr]

/-- A stored run compares the memory, the MMU and the bus of two states alone. -/
theorem storesRun_congr {base : Word} {bytes : List Byte} {s s' t : State} (hm : s.mmu = s'.mmu) (hr : s.ram = s'.ram)
    (hb : busFrame t s = busFrame t s') (h : storesRun base bytes s t) : storesRun base bytes s' t := by
  obtain ⟨h1, h2, h3⟩ := h
  refine ⟨fun hc pa hpa => ?_, fun ha => (h2 ha).trans hm, fun hrun => ?_⟩
  · rw [← hr]
    exact h1 hc pa (by rw [reaches_mmu hm]; exact hpa)
  · rw [← hb]
    exact h3 (by rw [ramRun_mmu hm]; exact hrun)

/-- The IRQ stage of the service point (R612, R618). -/
def irqStage (s : State) : State := if s.irqLatch && !s.cc.i then serviceIrq s else s

/-- The FIRQ stage of the service point (R613, R618). -/
def firqStage (s : State) : State := if s.firqLatch && !s.cc.f then serviceFirq s else s

/-- The NMI stage of the service point (R614, R618). -/
def nmiStage (s : State) : State := if s.nmiLatch then serviceNmi s else s

theorem service_stages (s : State) : service s = nmiStage (firqStage (irqStage (releaseSync s))) := rfl

theorem irqStage_off {s : State} (h : s.irqLatch = true → s.cc.i = true) : irqStage s = s := by
  unfold irqStage
  cases hl : s.irqLatch
  · rfl
  · rw [h hl]
    rfl

theorem irqStage_on {s : State} (h : s.irqLatch = true) (h2 : s.cc.i = false) : irqStage s = serviceIrq s := by
  simp [irqStage, h, h2]

theorem firqStage_off {s : State} (h : s.firqLatch = true → s.cc.f = true) : firqStage s = s := by
  unfold firqStage
  cases hl : s.firqLatch
  · rfl
  · rw [h hl]
    rfl

theorem firqStage_on {s : State} (h : s.firqLatch = true) (h2 : s.cc.f = false) : firqStage s = serviceFirq s := by
  simp [firqStage, h, h2]

theorem nmiStage_off {s : State} (h : s.nmiLatch = false) : nmiStage s = s := by
  simp [nmiStage, h]

theorem nmiStage_on {s : State} (h : s.nmiLatch = true) : nmiStage s = serviceNmi s := by
  simp [nmiStage, h]

/-- A SYNC wait ends where any latch is set (R627). -/
theorem releaseSync_eq (s : State) :
    releaseSync s = { s with syncWait := s.syncWait && !(s.irqLatch || s.firqLatch || s.nmiLatch) } := by
  unfold releaseSync
  cases hs : s.syncWait
  · simp only [Bool.false_and, Bool.false_eq_true, if_false]
    rw [← hs]
  · cases hl : s.irqLatch || s.firqLatch || s.nmiLatch
    · simp only [Bool.and_false, Bool.false_eq_true, if_false, Bool.not_false, Bool.and_true]
      rw [← hs]
    · rfl

/-- A run stored in RAM changes RAM alone. -/
theorem onto_ram {s m r : State} {base : Word} {bytes : List Byte} (h : runStored base bytes s m)
    (hr : s.ramRun base bytes.length = true) (hm : r.mmu = s.mmu) (hb : busFrame r s = r) :
    onto r m = { r with ram := m.ram } := by
  have hmm := (h.1 (ramRun_avoids hr)).1.trans hm.symm
  have hbus := (h.2.1 hr).1
  simp only [State.mmu, Prod.mk.injEq] at hmm
  obtain ⟨g1, g2, g3, g4, g5, g6⟩ := hmm
  unfold onto storeFrame
  rw [g1, g2, g3, g4, g5, g6, ← hbus]
  show { busFrame r s with
    ram := m.ram, mmuEnabled := r.mmuEnabled, executiveEnabled := r.executiveEnabled, allRAM := r.allRAM
    romMode := r.romMode, parExec := r.parExec, parTask := r.parTask } = { r with ram := m.ram }
  rw [hb]

/-- The bytes of a run stored in RAM, in any state with that memory and the MMU as before. -/
theorem bytes_of_runStored {s m t : State} {base : Word} {bytes : List Byte} (h : runStored base bytes s m)
    (hr : s.ramRun base bytes.length = true) (hm : t.mmu = s.mmu) (ht : t.ram = m.ram) :
    t.ramBytes base bytes.length = bytes.map some ∧
    ∀ pa, s.reaches base pa bytes.length = false → t.ram.read pa = s.ram.read pa := by
  obtain ⟨h1, h2⟩ := h.1 (ramRun_avoids hr)
  rw [ht]
  exact ⟨(ramBytes_congr (hm.trans h1.symm) ht _ _).trans (h.2.1 hr).2, h2⟩

/-! ### Frames below S -/

/-- One run after another, split. -/
theorem ramRun_add (s : State) (va : Word) (n m : Nat) :
    s.ramRun va (n + m) = (s.ramRun va n && s.ramRun (va + BitVec.ofNat 16 n) m) := by
  induction n generalizing va with
  | zero => simp [State.ramRun]
  | succ n ih =>
    have e : va + 1 + BitVec.ofNat 16 n = va + BitVec.ofNat 16 (n + 1) := by
      rw [BitVec.add_assoc, BitVec.add_comm 1, BitVec.ofNat_add]
      rfl
    rw [Nat.add_right_comm]
    simp only [State.ramRun, ih, e, Bool.and_assoc]

theorem ramBytes_add (s : State) (va : Word) (n m : Nat) :
    s.ramBytes va (n + m) = s.ramBytes va n ++ s.ramBytes (va + BitVec.ofNat 16 n) m := by
  induction n generalizing va with
  | zero => simp [State.ramBytes]
  | succ n ih =>
    have e : va + 1 + BitVec.ofNat 16 n = va + BitVec.ofNat 16 (n + 1) := by
      rw [BitVec.add_assoc, BitVec.add_comm 1, BitVec.ofNat_add]
      rfl
    rw [Nat.add_right_comm]
    simp only [State.ramBytes, ih, e, List.cons_append]

theorem reaches_add (s : State) (va : Word) (pa n m : Nat) :
    s.reaches va pa (n + m) = (s.reaches va pa n || s.reaches (va + BitVec.ofNat 16 n) pa m) := by
  induction n generalizing va with
  | zero => simp [State.reaches]
  | succ n ih =>
    have e : va + 1 + BitVec.ofNat 16 n = va + BitVec.ofNat 16 (n + 1) := by
      rw [BitVec.add_assoc, BitVec.add_comm 1, BitVec.ofNat_add]
      rfl
    rw [Nat.add_right_comm]
    simp only [State.reaches, ih, e, Bool.or_assoc]

/-- A byte of RAM above a run of less than a page is none of the run: the low thirteen bits tell them apart. -/
theorem reaches_above {s : State} {va : Word} {pa n : Nat} (j : Nat) (h : s.ramAt (va + BitVec.ofNat 16 (n + j)) = some pa)
    (hn : n + j < 8192) : s.reaches va pa n = false := by
  induction n generalizing va with
  | zero => rfl
  | succ n ih =>
    have e : va + BitVec.ofNat 16 (n + 1 + j) = va + 1 + BitVec.ofNat 16 (n + j) := by
      rw [Nat.add_right_comm, BitVec.ofNat_add, BitVec.add_assoc, BitVec.add_comm 1]
      rfl
    simp only [State.reaches, Bool.or_eq_false_iff, beq_eq_false_iff_ne, ne_eq]
    refine ⟨fun h0 => ?_, ih (by rw [← e]; exact h) (by omega)⟩
    have h1 := ramAt_offset h0
    have h2 := ramAt_offset h
    rw [BitVec.toNat_add, BitVec.toNat_ofNat] at h2
    omega

/-- `t` is `s` with `bytes` in RAM below S: S down by their number, every other byte of RAM as before. -/
def framesBelow (s : State) (bytes : List Byte) (t : State) : Prop :=
  let base := s.sp - BitVec.ofNat 16 bytes.length
  t.mmu = s.mmu ∧ t.sp = base ∧ t.ramBytes base bytes.length = bytes.map some ∧
    ∀ pa, s.reaches base pa bytes.length = false → t.ram.read pa = s.ram.read pa

/-- A frame below another. -/
theorem framesBelow_append {s t u : State} {b c : List Byte} (h : framesBelow s b t) (h2 : framesBelow t c u)
    (hn : c.length + b.length < 8192) : framesBelow s (c ++ b) u := by
  obtain ⟨m1, p1, r1, k1⟩ := h
  obtain ⟨m2, p2, r2, k2⟩ := h2
  have e : s.sp - BitVec.ofNat 16 (c ++ b).length = t.sp - BitVec.ofNat 16 c.length := by
    rw [p1, List.length_append, BitVec.ofNat_add, BitVec.sub_sub, BitVec.add_comm]
  have e2 : t.sp - BitVec.ofNat 16 c.length + BitVec.ofNat 16 c.length = t.sp := BitVec.sub_add_cancel _ _
  refine ⟨m2.trans m1, by rw [p2, e], ?_, fun pa hpa => ?_⟩
  · rw [e, List.length_append, ramBytes_add, r2, e2, List.map_append, ← r1, ← p1]
    congr 1
    have key : ∀ (n j : Nat), c.length + j + n < 8192 →
        u.ramBytes (t.sp - BitVec.ofNat 16 c.length + BitVec.ofNat 16 (c.length + j)) n =
          t.ramBytes (t.sp - BitVec.ofNat 16 c.length + BitVec.ofNat 16 (c.length + j)) n := by
      intro n
      induction n with
      | zero => intros; rfl
      | succ n ih =>
        intro j hj
        have hs := ih (j + 1) (by omega)
        rw [← Nat.add_assoc, BitVec.ofNat_add (c.length + j) 1, ← BitVec.add_assoc] at hs
        simp only [State.ramBytes, List.cons.injEq]
        refine ⟨?_, hs⟩
        unfold State.ramByte
        rw [ramAt_mmu m2]
        cases ha : t.ramAt (t.sp - BitVec.ofNat 16 c.length + BitVec.ofNat 16 (c.length + j)) with
        | none => rfl
        | some pa => simp only [Option.map_some, k2 pa (reaches_above j ha (by omega))]
    have := key b.length 0 (by omega)
    rwa [Nat.add_zero, e2] at this
  · rw [e, List.length_append, reaches_add, Bool.or_eq_false_iff, e2] at hpa
    rw [k2 pa (by rw [reaches_mmu m2.symm] ; rw [reaches_mmu (m2.trans m1)]; exact hpa.1)]
    exact k1 pa (by rw [← p1]; exact hpa.2)

/-- The service point ends where the frames below S are `bytes` and all else is as in `t`. -/
theorem servicePushes_of {s t r : State} {bytes : List Byte} (hs : service s = r)
    (e : r = { t with ram := r.ram, sp := s.sp - BitVec.ofNat 16 bytes.length }) (h : framesBelow s bytes r) :
    servicePushes s bytes t := by
  intro _
  rw [hs]
  exact ⟨e, h.2.2.1, h.2.2.2⟩

@[simp] theorem entireBytes_length (cc : CC) (s : State) : (entireBytes cc s).length = 12 := rfl

@[simp] theorem reducedBytes_length (cc : CC) (s : State) : (reducedBytes cc s).length = 3 := rfl

/-- The vectors stand in the system ROM (R112). -/
theorem vector_congr {s t : State} (h : s.sysRom = t.sysRom) (va : Word) : s.vector va = t.vector va := by
  simp only [State.vector, h]

/-! ### Each service -/

/-- IRQ service outside a CWAI wait, the stack in RAM (R619). -/
theorem serviceIrq_ram {s : State} (hc : s.cwaiWait = false) (hr : s.ramRun (s.sp - 12) 12 = true) :
    serviceIrq s = { s with
      ram := (serviceIrq s).ram, sp := s.sp - 12, cc := { s.cc with e := true, i := true }, pc := s.vector 0xFFF8
      irqLatch := false } ∧
    framesBelow s (entireBytes { s.cc with e := true } s) (serviceIrq s) := by
  obtain ⟨m, e, r⟩ := takeException_entire true false (va := 0xFFF8) (by decide) (by decide) s
  have e2 := e.trans (onto_ram r hr rfl rfl)
  have hs : serviceIrq s = { s with
      ram := m.ram, sp := s.sp - 12, cc := { s.cc with e := true, i := true }, pc := s.vector 0xFFF8
      irqLatch := false } := by
    simp only [serviceIrq, frameFor, hc, Bool.false_eq_true, if_false, e2, Bool.or_true, Bool.or_false]
  exact ⟨by rw [hs], by rw [hs]; rfl, by rw [hs]; rfl, bytes_of_runStored r hr (by rw [hs]; rfl) (by rw [hs])⟩

/-- NMI service outside a CWAI wait, the stack in RAM (R621). -/
theorem serviceNmi_ram {s : State} (hc : s.cwaiWait = false) (hr : s.ramRun (s.sp - 12) 12 = true) :
    serviceNmi s = { s with
      ram := (serviceNmi s).ram, sp := s.sp - 12, cc := { s.cc with e := true, i := true, f := true }
      pc := s.vector 0xFFFC, nmiLatch := false } ∧
    framesBelow s (entireBytes { s.cc with e := true } s) (serviceNmi s) := by
  obtain ⟨m, e, r⟩ := takeException_entire true true (va := 0xFFFC) (by decide) (by decide) s
  have e2 := e.trans (onto_ram r hr rfl rfl)
  have hs : serviceNmi s = { s with
      ram := m.ram, sp := s.sp - 12, cc := { s.cc with e := true, i := true, f := true }, pc := s.vector 0xFFFC
      nmiLatch := false } := by
    simp only [serviceNmi, frameFor, hc, Bool.false_eq_true, if_false, e2, Bool.or_true]
  exact ⟨by rw [hs], by rw [hs]; rfl, by rw [hs]; rfl, bytes_of_runStored r hr (by rw [hs]; rfl) (by rw [hs])⟩

/-- FIRQ service outside a CWAI wait, the stack in RAM (R620). -/
theorem serviceFirq_ram {s : State} (hc : s.cwaiWait = false) (hr : s.ramRun (s.sp - 3) 3 = true) :
    serviceFirq s = { s with
      ram := (serviceFirq s).ram, sp := s.sp - 3, cc := { s.cc with e := false, i := true, f := true }
      pc := s.vector 0xFFF6, firqLatch := false } ∧
    framesBelow s (reducedBytes { s.cc with e := false } s) (serviceFirq s) := by
  obtain ⟨m, e, r⟩ := takeException_reduced true true (va := 0xFFF6) (by decide) (by decide) s
  have e2 := e.trans (onto_ram r hr rfl rfl)
  have hs : serviceFirq s = { s with
      ram := m.ram, sp := s.sp - 3, cc := { s.cc with e := false, i := true, f := true }, pc := s.vector 0xFFF6
      firqLatch := false } := by
    simp only [serviceFirq, frameFor, hc, Bool.false_eq_true, if_false, e2, Bool.or_true]
  exact ⟨by rw [hs], by rw [hs]; rfl, by rw [hs]; rfl, bytes_of_runStored r hr (by rw [hs]; rfl) (by rw [hs])⟩

/-- The first service of a CWAI wait pushes nothing and ends the wait (R619, R622, R623). -/
theorem serviceIrq_cwai {s : State} (hc : s.cwaiWait = true) : serviceIrq s = { s with
    cc := { s.cc with i := true }, pc := s.vector 0xFFF8, irqLatch := false, cwaiWait := false } := by
  simp only [serviceIrq, frameFor, hc, if_true]
  rw [takeException_stacked _ _ (by decide) (by decide)]
  simp

theorem serviceFirq_cwai {s : State} (hc : s.cwaiWait = true) : serviceFirq s = { s with
    cc := { s.cc with i := true, f := true }, pc := s.vector 0xFFF6, firqLatch := false, cwaiWait := false } := by
  simp only [serviceFirq, frameFor, hc, if_true]
  rw [takeException_stacked _ _ (by decide) (by decide)]
  simp

theorem serviceNmi_cwai {s : State} (hc : s.cwaiWait = true) : serviceNmi s = { s with
    cc := { s.cc with i := true, f := true }, pc := s.vector 0xFFFC, nmiLatch := false, cwaiWait := false } := by
  simp only [serviceNmi, frameFor, hc, if_true]
  rw [takeException_stacked _ _ (by decide) (by decide)]
  simp

end Sys2Proof.Machine
end

