-- ==== Sys2Proof/Laws/Evolution.lean ====
section
/-! SUPPORT. What no instruction can do: write a ROM image or a parameter, take back a recorded device access or a draw,
clear a latch, change the MMU without a recorded write to one of its registers, or break the canonical form of RAM. -/

namespace Sys2Proof.Machine

/-- What every step keeps or only lets grow (R6, R78, R113, R126, R130-R133). -/
structure Persists (s t : State) : Prop where
  sysRom : t.sysRom = s.sysRom
  cartRom : t.cartRom = s.cartRom
  cartSize : t.cartSize = s.cartSize
  cfg : t.cfg = s.cfg
  ram : Memory.wf 0 Config.ramSize s.ram = true → Memory.wf 0 Config.ramSize t.ram = true
  events : ∃ l, t.events = s.events ++ l ∧
    ((∀ va v, Event.write va v ∈ l → isMmuRegister va = false) → t.mmu = s.mmu)
  draws : s.draws ≤ t.draws
  ticks : s.ticks ≤ t.ticks

/-- `Persists`, with the waits as they were and no latch cleared: what every instruction but CWAI and SYNC does (R616). -/
structure Evolves (s t : State) : Prop extends Persists s t where
  waits : t.cwaiWait = s.cwaiWait ∧ t.syncWait = s.syncWait
  irq : s.irqLatch = true → t.irqLatch = true
  firq : s.firqLatch = true → t.firqLatch = true
  nmi : s.nmiLatch = true → t.nmiLatch = true

theorem Persists.trans {s t r : State} (h1 : Persists s t) (h2 : Persists t r) : Persists s r := by
  obtain ⟨l1, e1, m1⟩ := h1.events
  obtain ⟨l2, e2, m2⟩ := h2.events
  refine ⟨h2.sysRom.trans h1.sysRom, h2.cartRom.trans h1.cartRom, h2.cartSize.trans h1.cartSize, h2.cfg.trans h1.cfg,
    fun h => h2.ram (h1.ram h), ⟨l1 ++ l2, by rw [e2, e1, List.append_assoc], fun h => ?_⟩, h1.draws.trans h2.draws,
    h1.ticks.trans h2.ticks⟩
  exact (m2 fun va v hv => h va v (List.mem_append_right _ hv)).trans (m1 fun va v hv => h va v (List.mem_append_left _ hv))

theorem Evolves.trans {s t r : State} (h1 : Evolves s t) (h2 : Evolves t r) : Evolves s r :=
  ⟨h1.toPersists.trans h2.toPersists, ⟨h2.waits.1.trans h1.waits.1, h2.waits.2.trans h1.waits.2⟩,
    fun h => h2.irq (h1.irq h), fun h => h2.firq (h1.firq h), fun h => h2.nmi (h1.nmi h)⟩

/-- Writing registers is no concern of `Evolves`. -/
theorem Evolves.regs (s : State) (a b : Byte) (x y u sp pc : Word) (dp : Byte) (cc : CC) :
    Evolves s { s with a := a, b := b, x := x, y := y, u := u, sp := sp, pc := pc, dp := dp, cc := cc } :=
  ⟨⟨rfl, rfl, rfl, rfl, id, ⟨[], (List.append_nil _).symm, fun _ => rfl⟩, le_rfl, le_rfl⟩, ⟨rfl, rfl⟩, id, id, id⟩

theorem Evolves.refl (s : State) : Evolves s s := .regs s _ _ _ _ _ _ _ _ _

theorem Evolves.setCC (s : State) (v : CC) : Evolves s (s.setCC v) := .regs s _ _ _ _ _ _ _ _ _

theorem Evolves.setPc (s : State) (v : Word) : Evolves s (s.setPc v) := .regs s _ _ _ _ _ _ _ _ _

theorem Evolves.setStack (s : State) (k : StackPtr) (v : Word) : Evolves s (s.setStack k v) := by
  cases k <;> exact .regs s _ _ _ _ _ _ _ _ _

theorem Evolves.setReg (s : State) (r : Reg) (v : Word) : Evolves s (s.setReg r v) := by
  rw [setReg_frame]
  exact .regs s _ _ _ _ _ _ _ _ _

theorem Evolves.setIndex (s : State) (r : IndexReg) (v : Word) : Evolves s (s.setIndex r v) := by
  cases r <;> exact .regs s _ _ _ _ _ _ _ _ _

theorem Evolves.drawByte (s : State) : Evolves s (drawByte s).2 :=
  ⟨⟨rfl, rfl, rfl, rfl, id, ⟨[], (List.append_nil _).symm, fun _ => rfl⟩, Nat.le_succ _, le_rfl⟩, ⟨rfl, rfl⟩, id, id, id⟩

theorem Evolves.drawFlag (old : Bool) (s : State) : Evolves s (drawFlag old s).2 := by
  unfold Machine.drawFlag
  split
  · exact Evolves.drawByte s
  · exact .refl s

theorem Evolves.drawH (s : State) : Evolves s (drawH s) :=
  (Evolves.drawFlag s.cc.h s).trans (.setCC _ _)

theorem Evolves.drawV (s : State) : Evolves s (drawV s) :=
  (Evolves.drawFlag s.cc.v s).trans (.setCC _ _)

/-- A device access records one event and touches latches, answers and draws alone (R113). -/
theorem Evolves.deviceRead (va : Word) (s : State) : Evolves s (deviceRead va s).2 := by
  unfold Machine.deviceRead
  simp only [State.record_deviceAnswers]
  split
  · exact ⟨⟨rfl, rfl, rfl, rfl, id, ⟨[.read va], rfl, fun _ => rfl⟩, Nat.le_succ _, le_rfl⟩, ⟨rfl, rfl⟩, id, id, id⟩
  · next d rest _ =>
    exact ⟨⟨rfl, rfl, rfl, rfl, id, ⟨[.read va], rfl, fun _ => rfl⟩, le_rfl, le_rfl⟩, ⟨rfl, rfl⟩,
      fun h => Bool.or_eq_true_iff.mpr (.inl h), fun h => Bool.or_eq_true_iff.mpr (.inl h),
      fun h => Bool.or_eq_true_iff.mpr (.inl h)⟩

theorem Evolves.cartRead (o : Nat) (s : State) : Evolves s (cartRead o s).2 := by
  unfold Machine.cartRead
  split
  · exact .refl s
  · exact .drawByte s

theorem Evolves.readByte (va : Word) (s : State) : Evolves s (readByte va s).2 := by
  unfold Machine.readByte romRead parRead
  simp only
  repeat' split
  all_goals first
    | exact .refl s
    | exact .cartRead _ s
    | exact .deviceRead va s
    | exact .drawByte s

theorem Evolves.readWord (a : Word) (s : State) : Evolves s (readWord a s).2 :=
  (Evolves.readByte a s).trans (.readByte _ _)

/-- What a device write alone does: one recorded event. -/
theorem deviceWrite_evolves (va : Word) (v : Byte) (s : State) :
    Evolves s (deviceWrite va v s) ∧ (deviceWrite va v s).events = s.events ++ [.write va v] ∧
      (deviceWrite va v s).mmu = s.mmu := by
  unfold deviceWrite
  simp only [State.record_deviceAnswers]
  split
  · exact ⟨⟨⟨rfl, rfl, rfl, rfl, id, ⟨[.write va v], rfl, fun _ => rfl⟩, le_rfl, le_rfl⟩, ⟨rfl, rfl⟩, id, id, id⟩, rfl, rfl⟩
  · exact ⟨⟨⟨rfl, rfl, rfl, rfl, id, ⟨[.write va v], rfl, fun _ => rfl⟩, le_rfl, le_rfl⟩, ⟨rfl, rfl⟩,
      fun h => Bool.or_eq_true_iff.mpr (.inl h), fun h => Bool.or_eq_true_iff.mpr (.inl h),
      fun h => Bool.or_eq_true_iff.mpr (.inl h)⟩, rfl, rfl⟩

/-- A byte written: RAM in its form, a recorded event in the I/O window, the MMU changed at its registers alone. -/
theorem Evolves.writeByte (va : Word) (v : Byte) (s : State) : Evolves s (writeByte va v s) := by
  cases hio : inIo va
  · cases hr : s.ramAt va with
    | none => rw [writeByte_discarded v hio hr]; exact .refl s
    | some pa =>
      have hw := writeByte_ram_wf va v s
      rw [writeByte_ram v hr] at hw ⊢
      exact ⟨⟨rfl, rfl, rfl, rfl, hw, ⟨[], (List.append_nil _).symm, fun _ => rfl⟩, le_rfl, le_rfl⟩, ⟨rfl, rfl⟩, id, id, id⟩
  · obtain ⟨h, he, hm⟩ := deviceWrite_evolves va v s
    rw [writeByte_io v s hio]
    have hmmu : isMmuRegister va = false → (mmuControlWrite va v (deviceWrite va v s)).mmu = s.mmu :=
      fun ha => by rw [mmuControlWrite_other v _ ha, hm]
    rw [mmuControlWrite_frame] at hmmu ⊢
    exact ⟨⟨h.sysRom, h.cartRom, h.cartSize, h.cfg, h.ram,
      ⟨[.write va v], he, fun hl => hmmu (hl va v List.mem_cons_self)⟩, h.draws, h.ticks⟩, h.waits, h.irq, h.firq, h.nmi⟩

theorem Evolves.writeWord (a v : Word) (s : State) : Evolves s (writeWord a v s) :=
  (Evolves.writeByte _ _ s).trans (.writeByte _ _ _)

theorem Evolves.deref (ind : Bool) (ea : Word) (s : State) : Evolves s (deref ind ea s).2 := by
  cases ind
  · exact .refl s
  · exact .readWord ea s

theorem Evolves.indexedEA (ix : Indexed) (s : State) : Evolves s (indexedEA ix s).2 := by
  cases ix with
  | off5 r n => exact .refl s
  | postInc1 r => exact .setIndex s r _
  | postInc2 r ind => exact (Evolves.setIndex s r _).trans (.deref ind _ _)
  | preDec1 r => exact .setIndex s r _
  | preDec2 r ind => exact (Evolves.setIndex s r _).trans (.deref ind _ _)
  | extInd p => exact .readWord p s
  | _ => exact .deref _ _ s

theorem Evolves.effectiveAddress (m : MemOperand) (s : State) : Evolves s (effectiveAddress m s).2 := by
  cases m with
  | dir d => exact .refl s
  | ext a => exact .refl s
  | idx ix => exact .indexedEA ix s

theorem Evolves.operand8 (o : Operand8) (s : State) : Evolves s (operand8 o s).2 := by
  cases o with
  | imm v => exact .refl s
  | mem m => exact (Evolves.effectiveAddress m s).trans (.readByte _ _)

theorem Evolves.operand16 (o : Operand16) (s : State) : Evolves s (operand16 o s).2 := by
  cases o with
  | imm v => exact .refl s
  | mem m => exact (Evolves.effectiveAddress m s).trans (.readWord _ _)

/-! ### Stacks and exceptions -/

theorem Evolves.push8 (k : StackPtr) (v : Byte) (s : State) : Evolves s (push8 k v s) :=
  (Evolves.setStack s k _).trans (.writeByte _ _ _)

theorem Evolves.push16 (k : StackPtr) (v : Word) (s : State) : Evolves s (push16 k v s) :=
  (Evolves.setStack s k _).trans (.writeWord _ _ _)

theorem Evolves.pull8 (k : StackPtr) (s : State) : Evolves s (pull8 k s).2 :=
  (Evolves.readByte _ s).trans (.setStack _ k _)

theorem Evolves.pull16 (k : StackPtr) (s : State) : Evolves s (pull16 k s).2 :=
  (Evolves.readWord _ s).trans (.setStack _ k _)

theorem Evolves.pullInto8 (k : StackPtr) {set : State → Byte → State} (hs : ∀ t v, Evolves t (set t v)) (s : State) :
    Evolves s (pullInto8 k set s) :=
  (Evolves.pull8 k s).trans (hs _ _)

theorem Evolves.pullInto16 (k : StackPtr) {set : State → Word → State} (hs : ∀ t v, Evolves t (set t v)) (s : State) :
    Evolves s (pullInto16 k set s) :=
  (Evolves.pull16 k s).trans (hs _ _)

theorem Evolves.ite {s t : State} (c : Bool) {f : State → State} (h : Evolves s t) (hf : ∀ r, Evolves r (f r)) :
    Evolves s (if c then f t else t) := by
  cases c
  · exact h
  · exact h.trans (hf t)

theorem Evolves.pushMask (k : StackPtr) (m : Byte) (s : State) : Evolves s (pushMask k m s) := by
  unfold Machine.pushMask
  refine Evolves.ite _ (f := fun t => Machine.push8 k t.cc.toByte t) ?_ fun r => .push8 k _ r
  refine Evolves.ite _ (f := fun t => Machine.push8 k t.a t) ?_ fun r => .push8 k _ r
  refine Evolves.ite _ (f := fun t => Machine.push8 k t.b t) ?_ fun r => .push8 k _ r
  refine Evolves.ite _ (f := fun t => Machine.push8 k t.dp t) ?_ fun r => .push8 k _ r
  refine Evolves.ite _ (f := fun t => Machine.push16 k t.x t) ?_ fun r => .push16 k _ r
  refine Evolves.ite _ (f := fun t => Machine.push16 k t.y t) ?_ fun r => .push16 k _ r
  refine Evolves.ite _ (f := fun t => Machine.push16 k (t.stack k.other) t) ?_ fun r => .push16 k _ r
  exact Evolves.ite _ (f := fun t => Machine.push16 k t.pc t) (.refl s) fun r => .push16 k _ r

theorem Evolves.pullMask (k : StackPtr) (m : Byte) (s : State) : Evolves s (pullMask k m s) := by
  unfold Machine.pullMask
  refine Evolves.ite _ ?_ (.pullInto16 k fun t _ => .setPc t _)
  refine Evolves.ite _ ?_ (.pullInto16 k fun t _ => .setStack t _ _)
  refine Evolves.ite _ ?_ (.pullInto16 k fun t _ => .setReg t .y _)
  refine Evolves.ite _ ?_ (.pullInto16 k fun t _ => .setReg t .x _)
  refine Evolves.ite _ ?_ (.pullInto8 k fun t _ => .regs t _ _ _ _ _ _ _ _ _)
  refine Evolves.ite _ ?_ (.pullInto8 k fun t _ => .regs t _ _ _ _ _ _ _ _ _)
  refine Evolves.ite _ ?_ (.pullInto8 k fun t _ => .regs t _ _ _ _ _ _ _ _ _)
  exact Evolves.ite _ (.refl s) (.pullInto8 k fun t _ => .setCC t _)

theorem Evolves.pushEntireState (s : State) : Evolves s (pushEntireState s) := by
  unfold Machine.pushEntireState
  simp only []
  refine Evolves.trans ?_ (.push8 .s _ _)
  refine Evolves.trans ?_ (.push8 .s _ _)
  refine Evolves.trans ?_ (.push8 .s _ _)
  refine Evolves.trans ?_ (.push8 .s _ _)
  refine Evolves.trans ?_ (.push16 .s _ _)
  refine Evolves.trans ?_ (.push16 .s _ _)
  refine Evolves.trans ?_ (.push16 .s _ _)
  exact .push16 .s _ s

theorem Evolves.pushFrame (f : Frame) (s : State) : Evolves s (pushFrame f s) := by
  cases f with
  | entire => exact (Evolves.setCC s _).trans (.pushEntireState _)
  | reduced => exact (Evolves.setCC s _).trans ((Evolves.push16 .s _ _).trans (.push8 .s _ _))
  | stacked => exact .refl s

theorem Evolves.takeException (f : Frame) (i fm : Bool) (va : Word) (s : State) :
    Evolves s (takeException f i fm va s) :=
  (Evolves.pushFrame f s).trans <| (Evolves.setCC _ _).trans <| (Evolves.readWord va _).trans (.setPc _ _)

theorem Evolves.pullEntireState (s : State) : Evolves s (pullEntireState s) := by
  unfold Machine.pullEntireState
  simp only []
  refine Evolves.trans ?_ (.pullInto16 .s (fun t _ => .setReg t .u _) _)
  refine Evolves.trans ?_ (.pullInto16 .s (fun t _ => .setReg t .y _) _)
  refine Evolves.trans ?_ (.pullInto16 .s (fun t _ => .setReg t .x _) _)
  refine Evolves.trans ?_ (.pullInto8 .s (fun t _ => .regs t _ _ _ _ _ _ _ _ _) _)
  refine Evolves.trans ?_ (.pullInto8 .s (fun t _ => .regs t _ _ _ _ _ _ _ _ _) _)
  exact .pullInto8 .s (fun t _ => .regs t _ _ _ _ _ _ _ _ _) _

theorem Evolves.returnFromException (s : State) : Evolves s (returnFromException s) := by
  unfold Machine.returnFromException
  simp only []
  refine Evolves.trans ?_ (.pullInto16 .s (fun t _ => .setPc t _) _)
  exact Evolves.ite _ (.pullInto8 .s (fun t _ => .setCC t _) s) .pullEntireState

/-! ### Instructions -/

/-- What every instruction does that ends in a next state: `Evolves` and at least one tick more (R670). -/
def Completes (s t : State) : Prop := Evolves s t ∧ s.ticks + 1 ≤ t.ticks

theorem Evolves.tick {s t : State} (h : Evolves s t) (n : Nat) (hn : 1 ≤ n) : Completes s (t.tick n) := by
  have hk := h.ticks
  refine ⟨⟨⟨h.sysRom, h.cartRom, h.cartSize, h.cfg, h.ram, h.events, h.draws, ?_⟩, h.waits, h.irq, h.firq, h.nmi⟩, ?_⟩
  · show s.ticks ≤ t.ticks + n
    omega
  · show s.ticks + 1 ≤ t.ticks + n
    omega

theorem memTicks_pos (base : Nat) (m : MemOperand) (h : 1 ≤ base) : 1 ≤ memTicks base m := by
  cases m <;> simp only [memTicks] <;> omega

theorem ticks8_pos (base : Nat) (o : Operand8) (h : 1 ≤ base) : 1 ≤ ticks8 base o := by
  cases o with
  | imm v => exact h
  | mem m => exact memTicks_pos _ m (by omega)

theorem ticks16_pos (base : Nat) (o : Operand16) (h : 1 ≤ base) : 1 ≤ ticks16 base o := by
  cases o with
  | imm v => exact h
  | mem m => exact memTicks_pos _ m (by omega)

section
variable {get : State → Byte} {set : State → Byte → State} {get16 : State → Word} {set16 : State → Word → State}
  (hs : ∀ t v, Evolves t (set t v)) (hs16 : ∀ t v, Evolves t (set16 t v)) (s : State)

include hs in
theorem load8_completes (o : Operand8) {base : Nat} (h : 1 ≤ base) : Completes s (load8 set base o s) :=
  (((Evolves.operand8 o s).trans (hs _ _)).trans (.setCC _ _)).tick _ (ticks8_pos base o h)

include hs16 in
theorem load16_completes (o : Operand16) {base : Nat} (h : 1 ≤ base) : Completes s (load16 set16 base o s) :=
  (((Evolves.operand16 o s).trans (hs16 _ _)).trans (.setCC _ _)).tick _ (ticks16_pos base o h)

theorem store8_completes (m : MemOperand) {base : Nat} (h : 1 ≤ base) : Completes s (store8 get base m s) :=
  (((Evolves.effectiveAddress m s).trans (.writeByte _ _ _)).trans (.setCC _ _)).tick _ (memTicks_pos base m h)

theorem store16_completes (m : MemOperand) {base : Nat} (h : 1 ≤ base) : Completes s (store16 get16 base m s) :=
  (((Evolves.effectiveAddress m s).trans (.writeWord _ _ _)).trans (.setCC _ _)).tick _ (memTicks_pos base m h)

include hs16 in
theorem lea_completes (ix : Indexed) : Completes s (lea set16 ix s) :=
  ((Evolves.indexedEA ix s).trans (hs16 _ _)).tick _ (by omega)

include hs16 in
theorem leaZ_completes (ix : Indexed) : Completes s (leaZ set16 ix s) :=
  (((Evolves.indexedEA ix s).trans (hs16 _ _)).trans (.setCC _ _)).tick _ (by omega)

include hs in
theorem arith8_completes (law : Byte → Byte → CC → Byte × CC) (o : Operand8) : Completes s (arith8 get set law o s) :=
  (((Evolves.operand8 o s).trans (.setCC _ _)).trans (hs _ _)).tick _ (ticks8_pos 2 o (by omega))

include hs in
theorem subtract8_completes (c : Bool) (o : Operand8) : Completes s (subtract8 get set c o s) :=
  ((((Evolves.operand8 o s).trans (.drawH _)).trans (.setCC _ _)).trans (hs _ _)).tick _ (ticks8_pos 2 o (by omega))

theorem compare8_completes (o : Operand8) : Completes s (compare8 get o s) :=
  (((Evolves.operand8 o s).trans (.drawH _)).trans (.setCC _ _)).tick _ (ticks8_pos 2 o (by omega))

include hs in
theorem logic8_completes (f : Byte → Byte → Byte) (o : Operand8) : Completes s (logic8 get set f o s) :=
  (((Evolves.operand8 o s).trans (hs _ _)).trans (.setCC _ _)).tick _ (ticks8_pos 2 o (by omega))

theorem bitTest8_completes (o : Operand8) : Completes s (bitTest8 get o s) :=
  ((Evolves.operand8 o s).trans (.setCC _ _)).tick _ (ticks8_pos 2 o (by omega))

include hs in
theorem unaryAcc_completes {t : State} (h : Evolves s t) (law : Byte → CC → Byte × CC) :
    Completes s (unaryAcc get set law t) :=
  ((h.trans (.setCC _ _)).trans (hs _ _)).tick _ (by omega)

theorem unaryMem_completes (law : Byte → CC → Byte × CC) (m : MemOperand) : Completes s (unaryMem law m s) :=
  ((((Evolves.effectiveAddress m s).trans (.readByte _ _)).trans (.setCC _ _)).trans (.writeByte _ _ _)).tick _
    (memTicks_pos 6 m (by omega))

theorem unaryMemH_completes (law : Byte → CC → Byte × CC) (m : MemOperand) : Completes s (unaryMemH law m s) :=
  (((((Evolves.effectiveAddress m s).trans (.readByte _ _)).trans (.drawH _)).trans (.setCC _ _)).trans
    (.writeByte _ _ _)).tick _ (memTicks_pos 6 m (by omega))

theorem testAcc_completes : Completes s (testAcc get s) := (Evolves.setCC s _).tick _ (by omega)

theorem testMem_completes (m : MemOperand) : Completes s (testMem m s) :=
  (((Evolves.effectiveAddress m s).trans (.readByte _ _)).trans (.setCC _ _)).tick _ (memTicks_pos 6 m (by omega))

include hs in
theorem clearAcc_completes : Completes s (clearAcc set s) := ((Evolves.setCC s _).trans (hs _ _)).tick _ (by omega)

theorem clearMem_completes (m : MemOperand) : Completes s (clearMem m s) :=
  (((Evolves.effectiveAddress m s).trans (.setCC _ _)).trans (.writeByte _ _ _)).tick _ (memTicks_pos 6 m (by omega))

theorem arith16_completes (law : Word → Word → CC → Word × CC) (o : Operand16) {base : Nat} (h : 1 ≤ base) :
    Completes s (arith16 law base o s) :=
  (((Evolves.operand16 o s).trans (.regs _ _ _ _ _ _ _ _ _ _)).trans (.setCC _ _)).tick _ (ticks16_pos base o h)

theorem compare16_completes (o : Operand16) {base : Nat} (h : 1 ≤ base) : Completes s (compare16 get16 base o s) :=
  ((Evolves.operand16 o s).trans (.setCC _ _)).tick _ (ticks16_pos base o h)

theorem shortBranch_completes (c : Bool) (o : Byte) : Completes s (shortBranch c o s) :=
  (Evolves.ite c (f := fun t => t.setPc (t.pc + sext8 o)) (.refl s) fun r => .setPc r _).tick _ (by omega)

theorem longBranch_completes (c : Bool) (o : Word) : Completes s (longBranch c o s) := by
  cases c
  · exact (Evolves.refl s).tick 5 (by omega)
  · exact (Evolves.setPc s _).tick 6 (by omega)

theorem call_evolves (target : Word) : Evolves s (call target s) := (Evolves.push16 .s _ s).trans (.setPc _ _)

end

theorem completes_of_next {o : Result} {s t u : State} (h : o = .next t) (e : o = .next u)
    (hc : Completes s u) : Completes s { t with cwaiWait := s.cwaiWait, syncWait := s.syncWait } ∧
      (t.cwaiWait = s.cwaiWait ∨ t.syncWait = s.syncWait) := by
  obtain rfl := Host.Outcome.next.inj (e.symm.trans h)
  obtain ⟨hk, ht⟩ := hc
  exact ⟨⟨⟨⟨hk.sysRom, hk.cartRom, hk.cartSize, hk.cfg, hk.ram, hk.events, hk.draws, hk.ticks⟩, ⟨rfl, rfl⟩, hk.irq, hk.firq,
    hk.nmi⟩, ht⟩, .inl hk.waits.1⟩

theorem tfr_completes {r1 r2 : Reg} {s t : State} (h : execTfr r1 r2 s = .next t) :
    Completes s { t with cwaiWait := s.cwaiWait, syncWait := s.syncWait } ∧
      (t.cwaiWait = s.cwaiWait ∨ t.syncWait = s.syncWait) := by
  unfold execTfr at h
  split at h
  · exact completes_of_next h rfl ((Evolves.setReg s r2 (s.reg r1)).tick 6 (by decide))
  · cases h

theorem exg_completes {r1 r2 : Reg} {s t : State} (h : execExg r1 r2 s = .next t) :
    Completes s { t with cwaiWait := s.cwaiWait, syncWait := s.syncWait } ∧
      (t.cwaiWait = s.cwaiWait ∨ t.syncWait = s.syncWait) := by
  unfold execExg at h
  split at h
  · exact completes_of_next h rfl
      (((Evolves.setReg s r1 (s.reg r2)).trans (.setReg (s.setReg r1 (s.reg r2)) r2 (s.reg r1))).tick 8 (by decide))
  · cases h

theorem Evolves.wait {s m : State} (h : Evolves s m) (n : Nat) (hn : 1 ≤ n) :
    Completes s { ({ m with cwaiWait := true }.tick n) with cwaiWait := s.cwaiWait, syncWait := s.syncWait } ∧
      (({ m with cwaiWait := true }.tick n).cwaiWait = s.cwaiWait ∨
        ({ m with cwaiWait := true }.tick n).syncWait = s.syncWait) := by
  obtain ⟨hk, ht⟩ := h.tick n hn
  exact ⟨⟨⟨⟨hk.sysRom, hk.cartRom, hk.cartSize, hk.cfg, hk.ram, hk.events, hk.draws, hk.ticks⟩, ⟨rfl, rfl⟩, hk.irq,
    hk.firq, hk.nmi⟩, ht⟩, .inr h.waits.2⟩

theorem cwai_completes {v : Byte} {s t : State} (h : execCwai v s = .next t) :
    Completes s { t with cwaiWait := s.cwaiWait, syncWait := s.syncWait } ∧
      (t.cwaiWait = s.cwaiWait ∨ t.syncWait = s.syncWait) := by
  obtain rfl := Host.Outcome.next.inj h
  have hp := (Evolves.setCC s (s.cc.andByte v)).trans (.pushFrame .entire (s.setCC (s.cc.andByte v)))
  exact hp.wait 20 (by decide)

theorem sync_completes {s t : State} (h : execSync s = .next t) :
    Completes s { t with cwaiWait := s.cwaiWait, syncWait := s.syncWait } ∧
      (t.cwaiWait = s.cwaiWait ∨ t.syncWait = s.syncWait) := by
  obtain rfl := Host.Outcome.next.inj h
  exact ⟨(Evolves.refl s).tick 4 (by decide), .inl rfl⟩

/-- What no instruction does (`Evolves`), the waits aside, of which it begins one at most (R80, R81). -/
theorem exec_completes {i : Instr} {s t : State} (h : exec i s = .next t) :
    Completes s { t with cwaiWait := s.cwaiWait, syncWait := s.syncWait } ∧
      (t.cwaiWait = s.cwaiWait ∨ t.syncWait = s.syncWait) := by
  cases i with
  | lda o | ldb o =>
    exact completes_of_next h rfl (load8_completes (fun t _ => .regs t _ _ _ _ _ _ _ _ _) s o (by decide))
  | ldd o | ldx o | ldy o | ldu o | lds o =>
    exact completes_of_next h rfl (load16_completes (fun t _ => .regs t _ _ _ _ _ _ _ _ _) s o (by decide))
  | sta m | stb m =>
    exact completes_of_next h rfl (store8_completes s m (by decide))
  | std m | stx m | sty m | stu m | sts m =>
    exact completes_of_next h rfl (store16_completes s m (by decide))
  | leax ix | leay ix =>
    exact completes_of_next h rfl (leaZ_completes (fun t _ => .regs t _ _ _ _ _ _ _ _ _) s ix)
  | leau ix | leas ix =>
    exact completes_of_next h rfl (lea_completes (fun t _ => .regs t _ _ _ _ _ _ _ _ _) s ix)
  | adda o | addb o | adca o | adcb o =>
    exact completes_of_next h rfl (arith8_completes (fun t _ => .regs t _ _ _ _ _ _ _ _ _) s _ o)
  | suba o | subb o | sbca o | sbcb o =>
    exact completes_of_next h rfl (subtract8_completes (fun t _ => .regs t _ _ _ _ _ _ _ _ _) s _ o)
  | cmpa o | cmpb o =>
    exact completes_of_next h rfl (compare8_completes s o)
  | anda o | andb o | ora o | orb o | eora o | eorb o =>
    exact completes_of_next h rfl (logic8_completes (fun t _ => .regs t _ _ _ _ _ _ _ _ _) s _ o)
  | bita o | bitb o =>
    exact completes_of_next h rfl (bitTest8_completes s o)
  | andcc v | orcc v =>
    exact completes_of_next h rfl ((Evolves.setCC s _).tick _ (by decide))
  | daa =>
    exact completes_of_next h rfl (((Evolves.drawV s).trans (.regs _ _ _ _ _ _ _ _ _ _)).tick _ (by decide))
  | mul | sex | abx =>
    exact completes_of_next h rfl ((Evolves.regs s _ _ _ _ _ _ _ _ _).tick _ (by decide))
  | nega | negb | asra | asrb | asla | aslb =>
    exact completes_of_next h rfl (unaryAcc_completes (fun t _ => .regs t _ _ _ _ _ _ _ _ _) s (.drawH s) _)
  | coma | comb | lsra | lsrb | rora | rorb | rola | rolb | deca | decb | inca | incb =>
    exact completes_of_next h rfl (unaryAcc_completes (fun t _ => .regs t _ _ _ _ _ _ _ _ _) s (.refl s) _)
  | neg m | asr m | asl m =>
    exact completes_of_next h rfl (unaryMemH_completes s _ m)
  | com m | lsr m | ror m | rol m | dec m | inc m =>
    exact completes_of_next h rfl (unaryMem_completes s _ m)
  | tsta | tstb =>
    exact completes_of_next h rfl (testAcc_completes s)
  | tst m =>
    exact completes_of_next h rfl (testMem_completes s m)
  | clra | clrb =>
    exact completes_of_next h rfl (clearAcc_completes (fun t _ => .regs t _ _ _ _ _ _ _ _ _) s)
  | clr m =>
    exact completes_of_next h rfl (clearMem_completes s m)
  | addd o | subd o =>
    exact completes_of_next h rfl (arith16_completes s _ o (by decide))
  | cmpd o | cmpx o | cmpy o | cmpu o | cmps o =>
    exact completes_of_next h rfl (compare16_completes s o (by decide))
  | bra o | brn o | bhi o | bls o | bhs o | blo o | bne o | beq o | bvc o | bvs o | bpl o | bmi o | bge o
  | blt o | bgt o | ble o =>
    exact completes_of_next h rfl (shortBranch_completes s _ o)
  | lbra o =>
    exact completes_of_next h rfl ((Evolves.setPc s _).tick _ (by decide))
  | lbrn o | lbhi o | lbls o | lbhs o | lblo o | lbne o | lbeq o | lbvc o | lbvs o | lbpl o | lbmi o | lbge o
  | lblt o | lbgt o | lble o =>
    exact completes_of_next h rfl (longBranch_completes s _ o)
  | bsr o | lbsr o =>
    exact completes_of_next h rfl ((call_evolves s _).tick _ (by decide))
  | jmp m =>
    exact completes_of_next h rfl (((Evolves.effectiveAddress m s).trans (.setPc _ _)).tick _ (memTicks_pos 3 m (by decide)))
  | jsr m =>
    exact completes_of_next h rfl (((Evolves.effectiveAddress m s).trans (call_evolves _ _)).tick _ (memTicks_pos 7 m (by decide)))
  | rts =>
    exact completes_of_next h rfl ((Evolves.pullInto16 .s (fun t _ => .setPc t _) s).tick _ (by decide))
  | pshs m | pshu m =>
    exact completes_of_next h rfl ((Evolves.pushMask _ m s).tick _ (by omega))
  | puls m | pulu m =>
    exact completes_of_next h rfl ((Evolves.pullMask _ m s).tick _ (by omega))
  | nop =>
    exact completes_of_next h rfl ((Evolves.refl s).tick _ (by decide))
  | swi | swi2 | swi3 =>
    exact completes_of_next h rfl ((Evolves.takeException _ _ _ _ s).tick _ (by decide))
  | rti =>
    exact completes_of_next h rfl ((Evolves.returnFromException s).tick _ (by split <;> decide))
  | tfr r1 r2 => exact tfr_completes h
  | exg r1 r2 => exact exg_completes h
  | cwai v => exact cwai_completes h
  | sync => exact sync_completes h

end Sys2Proof.Machine
end

