-- ==== Sys2Proof/Laws/PerInstr.lean ====
section
/-! SUPPORT. Statements per instruction: every encoding has one to five bytes (R160). -/

namespace Sys2Proof.Laws.EncodedLength

open Sys2Proof

/-- An instruction's encoding has one to five bytes (R160). -/
def Statement (i : Instr) : Prop := 1 ≤ (encode i).length ∧ (encode i).length ≤ 5

theorem indexed (ix : Indexed) : 1 ≤ (encodeIndexed ix).length ∧ (encodeIndexed ix).length ≤ 3 := by
  cases ix <;> simp [encodeIndexed]

theorem memory (d i e : Byte) (m : MemOperand) : 2 ≤ (encodeMem d i e m).length ∧ (encodeMem d i e m).length ≤ 4 := by
  cases m with
  | dir v => simp [encodeMem]
  | ext a => simp [encodeMem]
  | idx ix =>
    have h := indexed ix
    simp only [encodeMem, List.length_cons]
    omega

theorem operand8 (v d i e : Byte) (o : Operand8) : 2 ≤ (encode8 v d i e o).length ∧ (encode8 v d i e o).length ≤ 4 := by
  cases o with
  | imm v => simp [encode8]
  | mem m => exact memory d i e m

theorem operand16 (v d i e : Byte) (o : Operand16) :
    2 ≤ (encode16 v d i e o).length ∧ (encode16 v d i e o).length ≤ 4 := by
  cases o with
  | imm v => simp [encode16]
  | mem m => exact memory d i e m

/-- One to five bytes from two to four. -/
theorem within {l : List Byte} (h : 2 ≤ l.length ∧ l.length ≤ 4) : 1 ≤ l.length ∧ l.length ≤ 5 := by omega

/-- One to five bytes, a prefix byte before two to four. -/
theorem prefixed {b : Byte} {l : List Byte} (h : 2 ≤ l.length ∧ l.length ≤ 4) :
    1 ≤ (b :: l).length ∧ (b :: l).length ≤ 5 := by
  rw [List.length_cons]
  omega

/-- An opcode byte and the bytes of an indexed form. -/
theorem indexedAfter (b : Byte) (ix : Indexed) :
    1 ≤ (b :: encodeIndexed ix).length ∧ (b :: encodeIndexed ix).length ≤ 5 := by
  have h := indexed ix
  rw [List.length_cons]
  omega

/-- One to five bytes, counted. -/
theorem counted {l : List Byte} (h : (Nat.ble 1 l.length && Nat.ble l.length 5) = true) :
    1 ≤ l.length ∧ l.length ≤ 5 := by
  rw [Bool.and_eq_true] at h
  exact ⟨Nat.le_of_ble_eq_true h.1, Nat.le_of_ble_eq_true h.2⟩

theorem lda (o : Operand8) : Statement (.lda o) := within (operand8 _ _ _ _ o)
theorem ldb (o : Operand8) : Statement (.ldb o) := within (operand8 _ _ _ _ o)
theorem ldd (o : Operand16) : Statement (.ldd o) := within (operand16 _ _ _ _ o)
theorem ldx (o : Operand16) : Statement (.ldx o) := within (operand16 _ _ _ _ o)
theorem ldy (o : Operand16) : Statement (.ldy o) := prefixed (operand16 _ _ _ _ o)
theorem ldu (o : Operand16) : Statement (.ldu o) := within (operand16 _ _ _ _ o)
theorem lds (o : Operand16) : Statement (.lds o) := prefixed (operand16 _ _ _ _ o)
theorem sta (m : MemOperand) : Statement (.sta m) := within (memory _ _ _ m)
theorem stb (m : MemOperand) : Statement (.stb m) := within (memory _ _ _ m)
theorem std (m : MemOperand) : Statement (.std m) := within (memory _ _ _ m)
theorem stx (m : MemOperand) : Statement (.stx m) := within (memory _ _ _ m)
theorem sty (m : MemOperand) : Statement (.sty m) := prefixed (memory _ _ _ m)
theorem stu (m : MemOperand) : Statement (.stu m) := within (memory _ _ _ m)
theorem sts (m : MemOperand) : Statement (.sts m) := prefixed (memory _ _ _ m)
theorem leax (ix : Indexed) : Statement (.leax ix) := indexedAfter _ ix
theorem leay (ix : Indexed) : Statement (.leay ix) := indexedAfter _ ix
theorem leau (ix : Indexed) : Statement (.leau ix) := indexedAfter _ ix
theorem leas (ix : Indexed) : Statement (.leas ix) := indexedAfter _ ix
theorem adda (o : Operand8) : Statement (.adda o) := within (operand8 _ _ _ _ o)
theorem addb (o : Operand8) : Statement (.addb o) := within (operand8 _ _ _ _ o)
theorem adca (o : Operand8) : Statement (.adca o) := within (operand8 _ _ _ _ o)
theorem adcb (o : Operand8) : Statement (.adcb o) := within (operand8 _ _ _ _ o)
theorem suba (o : Operand8) : Statement (.suba o) := within (operand8 _ _ _ _ o)
theorem subb (o : Operand8) : Statement (.subb o) := within (operand8 _ _ _ _ o)
theorem sbca (o : Operand8) : Statement (.sbca o) := within (operand8 _ _ _ _ o)
theorem sbcb (o : Operand8) : Statement (.sbcb o) := within (operand8 _ _ _ _ o)
theorem cmpa (o : Operand8) : Statement (.cmpa o) := within (operand8 _ _ _ _ o)
theorem cmpb (o : Operand8) : Statement (.cmpb o) := within (operand8 _ _ _ _ o)
theorem anda (o : Operand8) : Statement (.anda o) := within (operand8 _ _ _ _ o)
theorem andb (o : Operand8) : Statement (.andb o) := within (operand8 _ _ _ _ o)
theorem ora (o : Operand8) : Statement (.ora o) := within (operand8 _ _ _ _ o)
theorem orb (o : Operand8) : Statement (.orb o) := within (operand8 _ _ _ _ o)
theorem eora (o : Operand8) : Statement (.eora o) := within (operand8 _ _ _ _ o)
theorem eorb (o : Operand8) : Statement (.eorb o) := within (operand8 _ _ _ _ o)
theorem bita (o : Operand8) : Statement (.bita o) := within (operand8 _ _ _ _ o)
theorem bitb (o : Operand8) : Statement (.bitb o) := within (operand8 _ _ _ _ o)
theorem andcc (v : Byte) : Statement (.andcc v) := counted rfl
theorem orcc (v : Byte) : Statement (.orcc v) := counted rfl
theorem daa : Statement .daa := counted rfl
theorem mul : Statement .mul := counted rfl
theorem sex : Statement .sex := counted rfl
theorem abx : Statement .abx := counted rfl
theorem nega : Statement .nega := counted rfl
theorem negb : Statement .negb := counted rfl
theorem neg (m : MemOperand) : Statement (.neg m) := within (memory _ _ _ m)
theorem coma : Statement .coma := counted rfl
theorem comb : Statement .comb := counted rfl
theorem com (m : MemOperand) : Statement (.com m) := within (memory _ _ _ m)
theorem lsra : Statement .lsra := counted rfl
theorem lsrb : Statement .lsrb := counted rfl
theorem lsr (m : MemOperand) : Statement (.lsr m) := within (memory _ _ _ m)
theorem rora : Statement .rora := counted rfl
theorem rorb : Statement .rorb := counted rfl
theorem ror (m : MemOperand) : Statement (.ror m) := within (memory _ _ _ m)
theorem asra : Statement .asra := counted rfl
theorem asrb : Statement .asrb := counted rfl
theorem asr (m : MemOperand) : Statement (.asr m) := within (memory _ _ _ m)
theorem asla : Statement .asla := counted rfl
theorem aslb : Statement .aslb := counted rfl
theorem asl (m : MemOperand) : Statement (.asl m) := within (memory _ _ _ m)
theorem rola : Statement .rola := counted rfl
theorem rolb : Statement .rolb := counted rfl
theorem rol (m : MemOperand) : Statement (.rol m) := within (memory _ _ _ m)
theorem deca : Statement .deca := counted rfl
theorem decb : Statement .decb := counted rfl
theorem dec (m : MemOperand) : Statement (.dec m) := within (memory _ _ _ m)
theorem inca : Statement .inca := counted rfl
theorem incb : Statement .incb := counted rfl
theorem inc (m : MemOperand) : Statement (.inc m) := within (memory _ _ _ m)
theorem tsta : Statement .tsta := counted rfl
theorem tstb : Statement .tstb := counted rfl
theorem tst (m : MemOperand) : Statement (.tst m) := within (memory _ _ _ m)
theorem clra : Statement .clra := counted rfl
theorem clrb : Statement .clrb := counted rfl
theorem clr (m : MemOperand) : Statement (.clr m) := within (memory _ _ _ m)
theorem addd (o : Operand16) : Statement (.addd o) := within (operand16 _ _ _ _ o)
theorem subd (o : Operand16) : Statement (.subd o) := within (operand16 _ _ _ _ o)
theorem cmpd (o : Operand16) : Statement (.cmpd o) := prefixed (operand16 _ _ _ _ o)
theorem cmpx (o : Operand16) : Statement (.cmpx o) := within (operand16 _ _ _ _ o)
theorem cmpy (o : Operand16) : Statement (.cmpy o) := prefixed (operand16 _ _ _ _ o)
theorem cmpu (o : Operand16) : Statement (.cmpu o) := prefixed (operand16 _ _ _ _ o)
theorem cmps (o : Operand16) : Statement (.cmps o) := prefixed (operand16 _ _ _ _ o)
theorem bra (o : Byte) : Statement (.bra o) := counted rfl
theorem brn (o : Byte) : Statement (.brn o) := counted rfl
theorem bhi (o : Byte) : Statement (.bhi o) := counted rfl
theorem bls (o : Byte) : Statement (.bls o) := counted rfl
theorem bhs (o : Byte) : Statement (.bhs o) := counted rfl
theorem blo (o : Byte) : Statement (.blo o) := counted rfl
theorem bne (o : Byte) : Statement (.bne o) := counted rfl
theorem beq (o : Byte) : Statement (.beq o) := counted rfl
theorem bvc (o : Byte) : Statement (.bvc o) := counted rfl
theorem bvs (o : Byte) : Statement (.bvs o) := counted rfl
theorem bpl (o : Byte) : Statement (.bpl o) := counted rfl
theorem bmi (o : Byte) : Statement (.bmi o) := counted rfl
theorem bge (o : Byte) : Statement (.bge o) := counted rfl
theorem blt (o : Byte) : Statement (.blt o) := counted rfl
theorem bgt (o : Byte) : Statement (.bgt o) := counted rfl
theorem ble (o : Byte) : Statement (.ble o) := counted rfl
theorem lbra (o : Word) : Statement (.lbra o) := counted rfl
theorem lbrn (o : Word) : Statement (.lbrn o) := counted rfl
theorem lbhi (o : Word) : Statement (.lbhi o) := counted rfl
theorem lbls (o : Word) : Statement (.lbls o) := counted rfl
theorem lbhs (o : Word) : Statement (.lbhs o) := counted rfl
theorem lblo (o : Word) : Statement (.lblo o) := counted rfl
theorem lbne (o : Word) : Statement (.lbne o) := counted rfl
theorem lbeq (o : Word) : Statement (.lbeq o) := counted rfl
theorem lbvc (o : Word) : Statement (.lbvc o) := counted rfl
theorem lbvs (o : Word) : Statement (.lbvs o) := counted rfl
theorem lbpl (o : Word) : Statement (.lbpl o) := counted rfl
theorem lbmi (o : Word) : Statement (.lbmi o) := counted rfl
theorem lbge (o : Word) : Statement (.lbge o) := counted rfl
theorem lblt (o : Word) : Statement (.lblt o) := counted rfl
theorem lbgt (o : Word) : Statement (.lbgt o) := counted rfl
theorem lble (o : Word) : Statement (.lble o) := counted rfl
theorem bsr (o : Byte) : Statement (.bsr o) := counted rfl
theorem lbsr (o : Word) : Statement (.lbsr o) := counted rfl
theorem jmp (m : MemOperand) : Statement (.jmp m) := within (memory _ _ _ m)
theorem jsr (m : MemOperand) : Statement (.jsr m) := within (memory _ _ _ m)
theorem rts : Statement .rts := counted rfl
theorem pshs (m : Byte) : Statement (.pshs m) := counted rfl
theorem puls (m : Byte) : Statement (.puls m) := counted rfl
theorem pshu (m : Byte) : Statement (.pshu m) := counted rfl
theorem pulu (m : Byte) : Statement (.pulu m) := counted rfl
theorem tfr (r1 r2 : Reg) : Statement (.tfr r1 r2) := counted rfl
theorem exg (r1 r2 : Reg) : Statement (.exg r1 r2) := counted rfl
theorem nop : Statement .nop := counted rfl
theorem swi : Statement .swi := counted rfl
theorem swi2 : Statement .swi2 := counted rfl
theorem swi3 : Statement .swi3 := counted rfl
theorem rti : Statement .rti := counted rfl
theorem cwai (v : Byte) : Statement (.cwai v) := counted rfl
theorem sync : Statement .sync := counted rfl

end Sys2Proof.Laws.EncodedLength
end

