-- ==== Sys2Proof/Laws/Steps.lean ====
section
/-! SUPPORT. What fetching, the service point and a step can do. -/

namespace Sys2Proof.Machine

/-! ### Fetching (R160, R166, R600-R606) -/

/-- A fetched byte advances PC and changes nothing else but what `busFrame` lists (R166). -/
theorem fetch8_frame (s : State) : (fetch8 s).2 = { busFrame s (fetch8 s).2 with pc := s.pc + 1 } := by
  have h := readByte_frame s.pc s
  unfold fetch8
  simp only []
  rw [h]
  rfl

theorem Evolves.fetch8 (s : State) : Evolves s (fetch8 s).2 := (Evolves.readByte _ s).trans (.setPc _ _)

theorem Evolves.fetchBytes (n : Nat) (s : State) : Evolves s (fetchBytes n s).2 := by
  induction n generalizing s with
  | zero => exact .refl s
  | succ n ih => exact (Evolves.fetch8 s).trans (ih _)

theorem fetchBytes_cfg (n : Nat) (s : State) : (fetchBytes n s).2.cfg = s.cfg := (Evolves.fetchBytes n s).cfg

theorem fetchBytes_length (n : Nat) (s : State) : (fetchBytes n s).1.length = n := by
  induction n generalizing s with
  | zero => rfl
  | succ n ih => simp only [Machine.fetchBytes, List.length_cons, ih]

/-- One byte more, at the end. -/
theorem fetchBytes_succ (n : Nat) (s : State) :
    fetchBytes (n + 1) s =
      ((fetchBytes n s).1 ++ [(fetch8 (fetchBytes n s).2).1], (fetch8 (fetchBytes n s).2).2) := by
  induction n generalizing s with
  | zero => rfl
  | succ n ih =>
    have h := ih (fetch8 s).2
    show ((fetch8 s).1 :: (fetchBytes (n + 1) (fetch8 s).2).1, (fetchBytes (n + 1) (fetch8 s).2).2) = _
    rw [h]
    rfl

/-- The bytes of a shorter fetch head those of a longer one. -/
theorem fetchBytes_split (k n : Nat) (s : State) (h : k < n) :
    ∃ extra, extra ≠ [] ∧ (fetchBytes n s).1 = (fetchBytes k s).1 ++ extra := by
  induction n with
  | zero => omega
  | succ n ih =>
    rw [fetchBytes_succ]
    by_cases hk : k = n
    · subst hk
      exact ⟨[(fetch8 (fetchBytes k s).2).1], by simp, rfl⟩
    · obtain ⟨e, he, hs⟩ := ih (by omega)
      exact ⟨e ++ [(fetch8 (fetchBytes n s).2).1], by simp, by rw [hs, List.append_assoc]⟩

/-- The fetch at the first `n` bytes, `n` the least number at which they are no longer cut short (R603-R606, R609). -/
theorem fetchFrom_eq (s : State) (m k fuel : Nat) (hm : m < fuel)
    (hmore : ∀ j, j ≤ m → decode s.cfg.pcrRegBits (fetchBytes (k + j) s).1 = .more) :
    fetchFrom fuel (fetchBytes k s).1 (fetchBytes k s).2 =
      match decode s.cfg.pcrRegBits (fetchBytes (k + m + 1) s).1 with
      | .instr i _ => .instr i (fetchBytes (k + m + 1) s).2
      | .more => fetchFrom (fuel - m - 1) (fetchBytes (k + m + 1) s).1 (fetchBytes (k + m + 1) s).2
      | .undefinedOpcode op => .stop (.fault (.decodeError op (fetchBytes (k + m + 1) s).2))
      | .malformedOperand pb => .stop (.fault (.malformedOperand pb (fetchBytes (k + m + 1) s).2)) := by
  induction m generalizing k fuel with
  | zero =>
    obtain ⟨f, rfl⟩ : ∃ f, fuel = f + 1 := ⟨fuel - 1, by omega⟩
    have hc : (fetch8 (fetchBytes k s).2).2.cfg = s.cfg := by
      have := fetchBytes_cfg (k + 1) s
      rwa [fetchBytes_succ] at this
    simp only [fetchFrom, Nat.add_zero, fetchBytes_succ, hc, Nat.sub_zero, Nat.add_sub_cancel] <;>
      cases decode s.cfg.pcrRegBits ((fetchBytes k s).1 ++ [(fetch8 (fetchBytes k s).2).1]) <;> rfl
  | succ m ih =>
    obtain ⟨f, rfl⟩ : ∃ f, fuel = f + 1 := ⟨fuel - 1, by omega⟩
    have h1 := hmore 1 (by omega)
    have hc : (fetch8 (fetchBytes k s).2).2.cfg = s.cfg := by
      have := fetchBytes_cfg (k + 1) s
      rwa [fetchBytes_succ] at this
    have := ih (k + 1) f (by omega) (fun j hj => by
      have := hmore (j + 1) (by omega)
      rwa [show k + 1 + j = k + (j + 1) by omega])
    rw [show k + 1 + m + 1 = k + (m + 1) + 1 by omega, show f - m - 1 = f + 1 - (m + 1) - 1 by omega] at this
    rw [← this]
    rw [fetchBytes_succ] at h1 ⊢
    simp only [fetchFrom, hc, h1]

/-- The ways a fetch ends (R600, R602-R606). -/
theorem fetch_cases (s : State) :
    (∃ n i rest, decode s.cfg.pcrRegBits (fetchBytes (n + 1) s).1 = .instr i rest ∧
      decode s.cfg.pcrRegBits (fetchBytes n s).1 = .more ∧ fetch s = .instr i (fetchBytes (n + 1) s).2) ∨
    (∃ n op, decode s.cfg.pcrRegBits (fetchBytes (n + 1) s).1 = .undefinedOpcode op ∧
      decode s.cfg.pcrRegBits (fetchBytes n s).1 = .more ∧
      fetch s = .stop (.fault (.decodeError op (fetchBytes (n + 1) s).2))) ∨
    (∃ n pb, decode s.cfg.pcrRegBits (fetchBytes (n + 1) s).1 = .malformedOperand pb ∧
      decode s.cfg.pcrRegBits (fetchBytes n s).1 = .more ∧
      fetch s = .stop (.fault (.malformedOperand pb (fetchBytes (n + 1) s).2))) ∨
    decode s.cfg.pcrRegBits (fetchBytes 5 s).1 = .more := by
  by_cases h5 : decode s.cfg.pcrRegBits (fetchBytes 5 s).1 = .more
  · exact .inr (.inr (.inr h5))
  · have hex : ∃ n, decode s.cfg.pcrRegBits (fetchBytes n s).1 ≠ .more := ⟨5, h5⟩
    have hn := Nat.find_spec hex
    have hmin := fun k (hk : k < Nat.find hex) => not_not.mp (Nat.find_min hex hk)
    have hle : Nat.find hex ≤ 5 := Nat.find_min' hex h5
    generalize Nat.find hex = n at *
    cases n with
    | zero => exact absurd rfl hn
    | succ n =>
      have hf := fetchFrom_eq s n 0 5 (by omega) (fun j hj => by rw [Nat.zero_add]; exact hmin j (by omega))
      rw [Nat.zero_add] at hf
      have hm := hmin n (by omega)
      have hfetch : fetch s = fetchFrom 5 (fetchBytes 0 s).1 (fetchBytes 0 s).2 := rfl
      rw [hf] at hfetch
      cases hd : decode s.cfg.pcrRegBits (fetchBytes (n + 1) s).1 with
      | instr i rest => rw [hd] at hfetch; exact .inl ⟨n, i, rest, hd, hm, hfetch⟩
      | more => exact absurd hd hn
      | undefinedOpcode op => rw [hd] at hfetch; exact .inr (.inl ⟨n, op, hd, hm, hfetch⟩)
      | malformedOperand pb => rw [hd] at hfetch; exact .inr (.inr (.inl ⟨n, pb, hd, hm, hfetch⟩))

/-- The least length at which fetched bytes are no longer cut short is the only such length below which they are. -/
theorem fetch_length_unique {s : State} {n m : Nat} (hn : decode s.cfg.pcrRegBits (fetchBytes n s).1 = .more)
    (hn1 : decode s.cfg.pcrRegBits (fetchBytes (n + 1) s).1 ≠ .more)
    (hm : decode s.cfg.pcrRegBits (fetchBytes m s).1 = .more)
    (hm1 : decode s.cfg.pcrRegBits (fetchBytes (m + 1) s).1 ≠ .more) : n = m := by
  by_contra hne
  rcases Nat.lt_or_gt_of_ne hne with h | h
  · by_cases he : n + 1 = m
    · exact hn1 (he ▸ hm)
    · obtain ⟨e, _, hs⟩ := fetchBytes_split (n + 1) m s (by omega)
      exact hn1 (decode_more_short (hs ▸ hm))
  · by_cases he : m + 1 = n
    · exact hm1 (he ▸ hn)
    · obtain ⟨e, _, hs⟩ := fetchBytes_split (m + 1) n s (by omega)
      exact hm1 (decode_more_short (hs ▸ hn))

/-! ### The service point -/

theorem Evolves.clearing {s t : State} (h : Evolves s t) (w1 w2 l1 l2 l3 : Bool) :
    Persists s { t with cwaiWait := w1, syncWait := w2, irqLatch := l1, firqLatch := l2, nmiLatch := l3 } :=
  ⟨h.sysRom, h.cartRom, h.cartSize, h.cfg, h.ram, h.events, h.draws, h.ticks⟩

/-- What the service point keeps, and that it begins no wait (R611-R622, R627). -/
def Serves (s t : State) : Prop :=
  Persists s t ∧ (t.cwaiWait = true → s.cwaiWait = true) ∧ (t.syncWait = true → s.syncWait = true)

theorem Serves.trans {s t r : State} (h1 : Serves s t) (h2 : Serves t r) : Serves s r :=
  ⟨h1.1.trans h2.1, fun h => h1.2.1 (h2.2.1 h), fun h => h1.2.2 (h2.2.2 h)⟩

theorem Serves.refl (s : State) : Serves s s := ⟨(Evolves.refl s).toPersists, id, id⟩

theorem serviceIrq_serves (s : State) : Serves s (serviceIrq s) := by
  have h := Evolves.takeException (frameFor s .entire) true false 0xFFF8 s
  unfold serviceIrq
  generalize takeException (frameFor s .entire) true false 0xFFF8 s = t at h ⊢
  exact ⟨h.clearing false t.syncWait false t.firqLatch t.nmiLatch, fun hf => absurd hf (by simp),
    fun hf => h.waits.2 ▸ hf⟩

theorem serviceFirq_serves (s : State) : Serves s (serviceFirq s) := by
  have h := Evolves.takeException (frameFor s .reduced) true true 0xFFF6 s
  unfold serviceFirq
  generalize takeException (frameFor s .reduced) true true 0xFFF6 s = t at h ⊢
  exact ⟨h.clearing false t.syncWait t.irqLatch false t.nmiLatch, fun hf => absurd hf (by simp),
    fun hf => h.waits.2 ▸ hf⟩

theorem serviceNmi_serves (s : State) : Serves s (serviceNmi s) := by
  have h := Evolves.takeException (frameFor s .entire) true true 0xFFFC s
  unfold serviceNmi
  generalize takeException (frameFor s .entire) true true 0xFFFC s = t at h ⊢
  exact ⟨h.clearing false t.syncWait t.irqLatch t.firqLatch false, fun hf => absurd hf (by simp),
    fun hf => h.waits.2 ▸ hf⟩

theorem Serves.ite {s t : State} (c : Bool) {f : State → State} (h : Serves s t) (hf : ∀ r, Serves r (f r)) :
    Serves s (if c then f t else t) := by
  cases c
  · exact h
  · exact h.trans (hf t)

theorem releaseSync_serves (s : State) : Serves s (releaseSync s) := by
  rw [releaseSync_eq]
  refine ⟨(Evolves.refl s).clearing s.cwaiWait _ s.irqLatch s.firqLatch s.nmiLatch, id, fun h => ?_⟩
  exact (Bool.and_eq_true_iff.mp h).1

/-- The service point (R611-R622, R627). -/
theorem service_serves (s : State) : Serves s (service s) := by
  rw [service_stages]
  exact ((releaseSync_serves s).trans (.ite _ (.refl _) serviceIrq_serves)).trans
    ((Serves.ite _ (.refl _) serviceFirq_serves).trans (.ite _ (.refl _) serviceNmi_serves))

/-! ### The step -/

/-- The ways a step goes: a wait; an instruction, decoded from the bytes at PC, and then the service point or its own
error; or an offending byte (R600-R606). The last case, five bytes cut short, does not happen. -/
theorem step_cases (s : State) :
    ((s.cwaiWait || s.syncWait) = true ∧ step s = .next (service (s.tick 1))) ∨
    ((s.cwaiWait || s.syncWait) = false ∧
      ((∃ n i rest, decode s.cfg.pcrRegBits (fetchBytes (n + 1) s).1 = .instr i rest ∧
          decode s.cfg.pcrRegBits (fetchBytes n s).1 = .more ∧
          step s = thenService (exec i (fetchBytes (n + 1) s).2)) ∨
        (∃ n op, decode s.cfg.pcrRegBits (fetchBytes (n + 1) s).1 = .undefinedOpcode op ∧
          decode s.cfg.pcrRegBits (fetchBytes n s).1 = .more ∧
          step s = .fault (.decodeError op (fetchBytes (n + 1) s).2)) ∨
        (∃ n pb, decode s.cfg.pcrRegBits (fetchBytes (n + 1) s).1 = .malformedOperand pb ∧
          decode s.cfg.pcrRegBits (fetchBytes n s).1 = .more ∧
          step s = .fault (.malformedOperand pb (fetchBytes (n + 1) s).2)) ∨
        decode s.cfg.pcrRegBits (fetchBytes 5 s).1 = .more)) := by
  cases hw : s.cwaiWait || s.syncWait
  · refine .inr ⟨rfl, ?_⟩
    have hs : step s = match fetch s with
      | .instr i s1 => thenService (exec i s1)
      | .stop r => r := by
        simp only [step, hw, Bool.false_eq_true, if_false] <;> cases fetch s <;> rfl
    rcases fetch_cases s with ⟨n, i, rest, h1, h2, h3⟩ | ⟨n, op, h1, h2, h3⟩ | ⟨n, pb, h1, h2, h3⟩ | h
    · exact .inl ⟨n, i, rest, h1, h2, by rw [hs, h3]⟩
    · exact .inr (.inl ⟨n, op, h1, h2, by rw [hs, h3]⟩)
    · exact .inr (.inr (.inl ⟨n, pb, h1, h2, by rw [hs, h3]⟩))
    · exact .inr (.inr (.inr h))
  · exact .inl ⟨rfl, by simp only [step, hw, if_true, waitStep, Config.waitTicks]⟩

end Sys2Proof.Machine
end

