-- ==== Sys2Proof/Tests/Slice0.lean ====
section
/-! SUPPORT. Tests of this model: decoding of words written out from spec/30_encoding.md rule R175 and
spec/opcode_table.json, ill-formed instructions, single steps whose results are the vectors of spec/95_test_vectors.md,
and for every statement with hypotheses a state and operands that meet them. -/

namespace Sys2Proof.Tests

open Sys2Proof Sys2Proof.Machine

/-! ### Well-formedness -/

/-- The one check of `Instr.wf`: an 8-bit register paired with a 16-bit one (R509). -/
theorem test_wf_refuses :
    (Instr.exg .a .x).wf = false ∧ (Instr.exg .d .cc).wf = false ∧ (Instr.tfr .pc .dp).wf = false ∧
    (Instr.tfr .b .y).wf = false := by decide

theorem test_wf_accepts :
    (Instr.exg .a .dp).wf = true ∧ (Instr.tfr .d .pc).wf = true ∧ (Instr.tfr .cc .cc).wf = true ∧ Instr.nop.wf = true := by
  decide

/-! ### Decoding -/

/-- The bytes are exactly the instruction. -/
def reads (bs : List Byte) (i : Instr) : Bool := decide (decode .ignored bs = .instr i [])

/-- Every constructor of spec/41_load_store.md decodes from a word of its row (R175). -/
theorem test_decode_loads_and_stores : (
    reads [0x86, 0x9A] (.lda (.imm 0x9A)) && reads [0xD6, 0x40] (.ldb (.mem (.dir 0x40))) &&
    reads [0xEC, 0x84] (.ldd (.mem (.idx (.zero .x false)))) &&
    reads [0xBE, 0x20, 0x05] (.ldx (.mem (.ext 0x2005))) && reads [0x10, 0x8E, 0x12, 0x34] (.ldy (.imm 0x1234)) &&
    reads [0xDE, 0x40] (.ldu (.mem (.dir 0x40))) && reads [0x10, 0xEE, 0x3F] (.lds (.mem (.idx (.off5 .y (-1))))) &&
    reads [0xA7, 0xC1] (.sta (.idx (.postInc2 .u false))) && reads [0xF7, 0x20, 0x05] (.stb (.ext 0x2005)) &&
    reads [0xDD, 0x40] (.std (.dir 0x40)) && reads [0xAF, 0xF8, 0x7F] (.stx (.idx (.off8 .s 0x7F true))) &&
    reads [0x10, 0xBF, 0x20, 0x05] (.sty (.ext 0x2005)) && reads [0xDF, 0x40] (.stu (.dir 0x40)) &&
    reads [0x10, 0xEF, 0x9F, 0x20, 0x00] (.sts (.idx (.extInd 0x2000))) && reads [0x30, 0x82] (.leax (.preDec1 .x)) &&
    reads [0x31, 0xB5] (.leay (.accB .y true)) && reads [0x33, 0xC6] (.leau (.accA .u false)) &&
    reads [0x32, 0xE9, 0x80, 0x01] (.leas (.off16 .s 0x8001 false))) = true := by decide

/-- Every constructor of spec/42_alu8.md decodes from a word of its row (R175). -/
theorem test_decode_accumulators : (
    reads [0xAB, 0x8C, 0xFE] (.adda (.mem (.idx (.pcr8 0xFE false)))) &&
    reads [0xFB, 0x20, 0x05] (.addb (.mem (.ext 0x2005))) && reads [0x89, 0x9A] (.adca (.imm 0x9A)) &&
    reads [0xD9, 0x40] (.adcb (.mem (.dir 0x40))) &&
    reads [0xA0, 0x9D, 0x12, 0x34] (.suba (.mem (.idx (.pcr16 0x1234 true)))) &&
    reads [0xF0, 0x20, 0x05] (.subb (.mem (.ext 0x2005))) && reads [0x82, 0x9A] (.sbca (.imm 0x9A)) &&
    reads [0xD2, 0x40] (.sbcb (.mem (.dir 0x40))) && reads [0xA1, 0xAB] (.cmpa (.mem (.idx (.accD .y false)))) &&
    reads [0xF1, 0x20, 0x05] (.cmpb (.mem (.ext 0x2005))) && reads [0x84, 0x9A] (.anda (.imm 0x9A)) &&
    reads [0xD4, 0x40] (.andb (.mem (.dir 0x40))) && reads [0xAA, 0xD3] (.ora (.mem (.idx (.preDec2 .u true)))) &&
    reads [0xFA, 0x20, 0x05] (.orb (.mem (.ext 0x2005))) && reads [0x88, 0x9A] (.eora (.imm 0x9A)) &&
    reads [0xD8, 0x40] (.eorb (.mem (.dir 0x40))) && reads [0xA5, 0xE0] (.bita (.mem (.idx (.postInc1 .s)))) &&
    reads [0xF5, 0x20, 0x05] (.bitb (.mem (.ext 0x2005))) && reads [0x1C, 0x9A] (.andcc 0x9A) &&
    reads [0x1A, 0x9A] (.orcc 0x9A) && reads [0x19] (.daa) && reads [0x3D] (.mul) && reads [0x1D] (.sex) &&
    reads [0x3A] (.abx)) = true := by decide

/-- Every constructor of spec/43_unary_rmw.md decodes from a word of its row (R175). -/
theorem test_decode_unary : (
    reads [0x40] (.nega) && reads [0x50] (.negb) && reads [0x70, 0x20, 0x05] (.neg (.ext 0x2005)) &&
    reads [0x43] (.coma) && reads [0x53] (.comb) && reads [0x73, 0x20, 0x05] (.com (.ext 0x2005)) &&
    reads [0x44] (.lsra) && reads [0x54] (.lsrb) && reads [0x74, 0x20, 0x05] (.lsr (.ext 0x2005)) &&
    reads [0x46] (.rora) && reads [0x56] (.rorb) && reads [0x76, 0x20, 0x05] (.ror (.ext 0x2005)) &&
    reads [0x47] (.asra) && reads [0x57] (.asrb) && reads [0x77, 0x20, 0x05] (.asr (.ext 0x2005)) &&
    reads [0x48] (.asla) && reads [0x58] (.aslb) && reads [0x78, 0x20, 0x05] (.asl (.ext 0x2005)) &&
    reads [0x49] (.rola) && reads [0x59] (.rolb) && reads [0x79, 0x20, 0x05] (.rol (.ext 0x2005)) &&
    reads [0x4A] (.deca) && reads [0x5A] (.decb) && reads [0x7A, 0x20, 0x05] (.dec (.ext 0x2005)) &&
    reads [0x4C] (.inca) && reads [0x5C] (.incb) && reads [0x7C, 0x20, 0x05] (.inc (.ext 0x2005)) &&
    reads [0x4D] (.tsta) && reads [0x5D] (.tstb) && reads [0x7D, 0x20, 0x05] (.tst (.ext 0x2005)) &&
    reads [0x4F] (.clra) && reads [0x5F] (.clrb) && reads [0x7F, 0x20, 0x05] (.clr (.ext 0x2005))) = true := by decide

/-- Every constructor of spec/44_alu16.md decodes from a word of its row (R175). -/
theorem test_decode_words : (
    reads [0xF3, 0x20, 0x05] (.addd (.mem (.ext 0x2005))) && reads [0x83, 0x12, 0x34] (.subd (.imm 0x1234)) &&
    reads [0x10, 0x93, 0x40] (.cmpd (.mem (.dir 0x40))) &&
    reads [0xAC, 0x84] (.cmpx (.mem (.idx (.zero .x false)))) &&
    reads [0x10, 0xBC, 0x20, 0x05] (.cmpy (.mem (.ext 0x2005))) &&
    reads [0x11, 0x83, 0x12, 0x34] (.cmpu (.imm 0x1234)) && reads [0x11, 0x9C, 0x40] (.cmps (.mem (.dir 0x40)))) = true := by decide

/-- Every constructor of spec/45_control.md decodes from a word of its row (R175). -/
theorem test_decode_control : (
    reads [0x20, 0xFC] (.bra 0xFC) && reads [0x21, 0xFC] (.brn 0xFC) && reads [0x22, 0xFC] (.bhi 0xFC) &&
    reads [0x23, 0xFC] (.bls 0xFC) && reads [0x24, 0xFC] (.bhs 0xFC) && reads [0x25, 0xFC] (.blo 0xFC) &&
    reads [0x26, 0xFC] (.bne 0xFC) && reads [0x27, 0xFC] (.beq 0xFC) && reads [0x28, 0xFC] (.bvc 0xFC) &&
    reads [0x29, 0xFC] (.bvs 0xFC) && reads [0x2A, 0xFC] (.bpl 0xFC) && reads [0x2B, 0xFC] (.bmi 0xFC) &&
    reads [0x2C, 0xFC] (.bge 0xFC) && reads [0x2D, 0xFC] (.blt 0xFC) && reads [0x2E, 0xFC] (.bgt 0xFC) &&
    reads [0x2F, 0xFC] (.ble 0xFC) && reads [0x16, 0xFF, 0x10] (.lbra 0xFF10) &&
    reads [0x10, 0x21, 0xFF, 0x10] (.lbrn 0xFF10) && reads [0x10, 0x22, 0xFF, 0x10] (.lbhi 0xFF10) &&
    reads [0x10, 0x23, 0xFF, 0x10] (.lbls 0xFF10) && reads [0x10, 0x24, 0xFF, 0x10] (.lbhs 0xFF10) &&
    reads [0x10, 0x25, 0xFF, 0x10] (.lblo 0xFF10) && reads [0x10, 0x26, 0xFF, 0x10] (.lbne 0xFF10) &&
    reads [0x10, 0x27, 0xFF, 0x10] (.lbeq 0xFF10) && reads [0x10, 0x28, 0xFF, 0x10] (.lbvc 0xFF10) &&
    reads [0x10, 0x29, 0xFF, 0x10] (.lbvs 0xFF10) && reads [0x10, 0x2A, 0xFF, 0x10] (.lbpl 0xFF10) &&
    reads [0x10, 0x2B, 0xFF, 0x10] (.lbmi 0xFF10) && reads [0x10, 0x2C, 0xFF, 0x10] (.lbge 0xFF10) &&
    reads [0x10, 0x2D, 0xFF, 0x10] (.lblt 0xFF10) && reads [0x10, 0x2E, 0xFF, 0x10] (.lbgt 0xFF10) &&
    reads [0x10, 0x2F, 0xFF, 0x10] (.lble 0xFF10) && reads [0x8D, 0xFC] (.bsr 0xFC) &&
    reads [0x17, 0xFF, 0x10] (.lbsr 0xFF10) && reads [0x7E, 0x20, 0x05] (.jmp (.ext 0x2005)) &&
    reads [0x9D, 0x40] (.jsr (.dir 0x40)) && reads [0x39] (.rts)) = true := by decide

/-- Every constructor of spec/46_stack_transfer.md decodes from a word of its row (R175). -/
theorem test_decode_stacks : (
    reads [0x34, 0x86] (.pshs 0x86) && reads [0x35, 0x86] (.puls 0x86) && reads [0x36, 0x86] (.pshu 0x86) &&
    reads [0x37, 0x86] (.pulu 0x86) && reads [0x1F, 0x8B] (.tfr .a .dp) && reads [0x1E, 0x15] (.exg .x .pc)) = true := by decide

/-- Every constructor of spec/47_system.md decodes from a word of its row (R175). -/
theorem test_decode_system : (
    reads [0x12] (.nop) && reads [0x3F] (.swi) && reads [0x10, 0x3F] (.swi2) && reads [0x11, 0x3F] (.swi3) &&
    reads [0x3B] (.rti) && reads [0x3C, 0x9A] (.cwai 0x9A) && reads [0x13] (.sync)) = true := by decide

/-- The indexed sub-modes, by their postbytes (R210-R226). -/
theorem test_decode_postbytes : (
    reads [0x30, 0x00] (.leax (.off5 .x 0)) && reads [0x30, 0x6F] (.leax (.off5 .s 15)) &&
    reads [0x30, 0x50] (.leax (.off5 .u (-16))) && reads [0x30, 0xA0] (.leax (.postInc1 .y)) &&
    reads [0x30, 0x91] (.leax (.postInc2 .x true)) && reads [0x30, 0xE2] (.leax (.preDec1 .s)) &&
    reads [0x30, 0x83] (.leax (.preDec2 .x false)) && reads [0x30, 0x94] (.leax (.zero .x true)) &&
    reads [0x30, 0x85] (.leax (.accB .x false)) && reads [0x30, 0x96] (.leax (.accA .x true)) &&
    reads [0x30, 0xA8, 0x80] (.leax (.off8 .y 0x80 false)) && reads [0x30, 0x99, 1, 0] (.leax (.off16 .x 0x0100 true)) &&
    reads [0x30, 0xFB] (.leax (.accD .s true)) && reads [0x30, 0xEC, 0x10] (.leax (.pcr8 0x10 false)) &&
    reads [0x30, 0x8D, 0xFF, 0xFC] (.leax (.pcr16 0xFFFC false)) && reads [0x30, 0xFF, 0x20, 0] (.leax (.extInd 0x2000)))
    = true := by decide

/-- Undefined opcodes, a prefix after a prefix among them, and malformed postbytes (V60.08-V60.13, V40.35, V46.15). -/
theorem test_decode_errors :
    decode .ignored [0x01] = .undefinedOpcode 0x01 ∧ decode .ignored [0x10, 0x00] = .undefinedOpcode 0x1000 ∧
    decode .ignored [0x10, 0x10, 0x8E] = .undefinedOpcode 0x1010 ∧ decode .ignored [0x11, 0x8E] = .undefinedOpcode 0x118E ∧
    decode .ignored [0x30, 0x87] = .malformedOperand 0x87 ∧ decode .ignored [0x1E, 0x0A] = .malformedOperand 0x0A ∧
    decode .ignored [0xA6, 0x92] = .malformedOperand 0x92 ∧ decode .malformed [0x31, 0xAC] = .malformedOperand 0xAC ∧
    decode .ignored [0x1F, 0x81] = .malformedOperand 0x81 ∧ decode .ignored [0x10] = .more := by decide

/-- The table numbers a prefixed row as first byte times 256 plus second (R161). -/
theorem test_table_words :
    decodeTableWord 16 0x8680 = some (.suba (.imm 0x86)) ∧ decodeTableWord 8 0x12 = some .nop ∧
    decodeTableWord 32 0x108E = some (.ldy (.imm 0)) ∧ decodeTableWord 8 0x01 = none := by decide

/-! ### Single steps -/

/-- The vectors' start: registers zero, S for the stack rows, the vectors of spec/95_test_vectors.md in system ROM. -/
def tested : State :=
  { State.reset with
    cc := CC.ofByte 0x00
    sysRom := [(0x7FF2, 0x71), (0x7FF4, 0x72), (0x7FF6, 0x73), (0x7FF8, 0x74), (0x7FFA, 0x75), (0x7FFC, 0x76), (0x7FFE, 0x77)] }

/-- CC without H, where the spec leaves H undefined: E F I N Z V C. -/
def butH (cc : CC) : BitVec 7 :=
  BitVec.ofBool cc.e ++ BitVec.ofBool cc.f ++ BitVec.ofBool cc.i ++ BitVec.ofBool cc.n ++ BitVec.ofBool cc.z ++
    BitVec.ofBool cc.v ++ BitVec.ofBool cc.c

/-- CC without V, where the spec leaves V undefined: E F H I N Z C. -/
def butV (cc : CC) : BitVec 7 :=
  BitVec.ofBool cc.e ++ BitVec.ofBool cc.f ++ BitVec.ofBool cc.h ++ BitVec.ofBool cc.i ++ BitVec.ofBool cc.n ++
    BitVec.ofBool cc.z ++ BitVec.ofBool cc.c

/-- `s` about to run `code` at 0x1000. -/
def running (code : List Byte) (s : State) : State := placeBytes { s with pc := 0x1000 } 0x1000 code

/-- What one step from there shows. -/
def shows (code : List Byte) (s : State) (p : State → Bool) : Bool :=
  match step (running code s) with
  | .next t => p t
  | .fault _ => false
  | .refused _ => false

/-- V40.10 LEAY ,X+ (wrap) -/
theorem test_leay_postinc_wraps : shows [0x31, 0x80]
    { tested with x := 0xFFFF } (fun t =>
      t.x == 0x0000 && t.y == 0xFFFF && t.pc == 0x1002 && t.cc.toByte == 0x00 && t.ticks == 5) = true := by
  decide

/-- V40.15 LEAY B,X -/
theorem test_leay_b_offset_signed : shows [0x31, 0x85]
    { tested with x := 0x2000, y := 0x3000, u := 0x4000, sp := 0x5000, b := 0xFF } (fun t =>
      t.y == 0x1FFF && t.pc == 0x1002 && t.cc.toByte == 0x00 && t.ticks == 5) = true := by
  decide

/-- V40.21 LEAY 16,PCR -/
theorem test_leay_pcr_after_offset : shows [0x31, 0x8C, 0x10]
    { tested with x := 0x2000, y := 0x3000, u := 0x4000, sp := 0x5000 } (fun t =>
      t.y == 0x1013 && t.pc == 0x1003 && t.cc.toByte == 0x00 && t.ticks == 6) = true := by
  decide

/-- V40.26 LEAY [,--X] -/
theorem test_leay_predec_indirect : shows [0x31, 0x93]
    { tested with
      x := 0x2000, y := 0x3000, u := 0x4000, sp := 0x5000,
      ram := [(0x71FFE, 0xAB), (0x71FFF, 0xCD), (0x72000, 0x12), (0x72001, 0x34), (0x72002, 0x56), (0x72003, 0x78)] } (fun t =>
      t.x == 0x1FFE && t.y == 0xABCD && t.pc == 0x1002 && t.cc.toByte == 0x00 && t.ticks == 5) = true := by
  decide

/-- V40.34 LDA [0x2000] (extended indirect) -/
theorem test_lda_extended_indirect : shows [0xA6, 0x9F, 0x20, 0x00]
    { tested with ram := [(0x72000, 0x30), (0x73000, 0x5A)] } (fun t =>
      t.a == 0x5A && t.pc == 0x1004 && t.cc.toByte == 0x00 && t.ticks == 7) = true := by
  decide

/-- V41.05 LDY #$0000 -/
theorem test_ldy_zero : shows [0x10, 0x8E, 0x00, 0x00]
    { tested with y := 0x1234 } (fun t =>
      t.y == 0x0000 && t.pc == 0x1004 && t.cc.toByte == 0x04 && t.ticks == 4) = true := by
  decide

/-- V41.08 STA <$10 -/
theorem test_sta_direct : shows [0x97, 0x10]
    { tested with a := 0x00, dp := 0x20, cc := CC.ofByte 0x0A } (fun t =>
      t.pc == 0x1002 && t.cc.toByte == 0x04 && t.ram.read 0x72010 == 0x00 && t.ticks == 4) = true := by
  decide

/-- V41.11 STD $FFFF (wrap) -/
theorem test_std_wraps : shows [0xFD, 0xFF, 0xFF]
    { tested with a := 0x12, b := 0x34 } (fun t =>
      t.pc == 0x1003 && t.cc.toByte == 0x00 && t.ram.read 0x70000 == 0x34 && t.ticks == 6) = true := by
  decide

/-- V41.15 STS ,X -/
theorem test_sts_indexed : shows [0x10, 0xEF, 0x84]
    { tested with sp := 0x7F00, x := 0x3000 } (fun t =>
      t.pc == 0x1003 && t.cc.toByte == 0x00 && t.ram.read 0x73000 == 0x7F && t.ram.read 0x73001 == 0x00 &&
      t.ticks == 7) = true := by
  decide

/-- V41.17 LEAX -1,X -/
theorem test_leax_z_alone : shows [0x30, 0x1F]
    { tested with x := 0x0001, cc := CC.ofByte 0x0F } (fun t =>
      t.x == 0x0000 && t.pc == 0x1002 && t.cc.toByte == 0x0F && t.ticks == 5) = true := by
  decide

/-- V41.18 LEAU -2,U -/
theorem test_leau_no_flag : shows [0x33, 0x5E]
    { tested with u := 0x0002, cc := CC.ofByte 0x00 } (fun t =>
      t.u == 0x0000 && t.pc == 0x1002 && t.cc.toByte == 0x00 && t.ticks == 5) = true := by
  decide

/-- V41.20 ROM write ignored: STA $8000 -/
theorem test_sta_rom_discarded : shows [0xB7, 0x80, 0x00]
    { tested with a := 0x99 } (fun t =>
      t.pc == 0x1003 && t.cc.toByte == 0x08 && t.ticks == 5) = true := by
  decide

/-- V42.01 ADDA #$01 -/
theorem test_adda_overflow : shows [0x8B, 0x01]
    { tested with a := 0x7F } (fun t =>
      t.a == 0x80 && t.pc == 0x1002 && t.cc.toByte == 0x2A && t.ticks == 2) = true := by
  decide

/-- V42.04 ADCA #$00 -/
theorem test_adca_half_carry : shows [0x89, 0x00]
    { tested with a := 0x0F, cc := CC.ofByte 0x01 } (fun t =>
      t.a == 0x10 && t.pc == 0x1002 && t.cc.toByte == 0x20 && t.ticks == 2) = true := by
  decide

/-- V42.08 SUBB #$80 -/
theorem test_subb_overflow : shows [0xC0, 0x80]
    { tested with b := 0x00 } (fun t =>
      t.b == 0x80 && t.pc == 0x1002 && butH t.cc == 0b0001011 && t.ticks == 2) = true := by
  decide

/-- V42.09 SBCA #$00 -/
theorem test_sbca_borrow : shows [0x82, 0x00]
    { tested with a := 0x00, cc := CC.ofByte 0x01 } (fun t =>
      t.a == 0xFF && t.pc == 0x1002 && butH t.cc == 0b0001001 && t.ticks == 2) = true := by
  decide

/-- V42.11 CMPA #$42 -/
theorem test_cmpa_equal : shows [0x81, 0x42]
    { tested with a := 0x42 } (fun t =>
      t.pc == 0x1002 && butH t.cc == 0b0000100 && t.ticks == 2) = true := by
  decide

/-- V42.13 ANDA #$0F -/
theorem test_anda_keeps_carry : shows [0x84, 0x0F]
    { tested with a := 0xF0, cc := CC.ofByte 0x03 } (fun t =>
      t.a == 0x00 && t.pc == 0x1002 && t.cc.toByte == 0x05 && t.ticks == 2) = true := by
  decide

/-- V42.21 ANDCC #$AF -/
theorem test_andcc : shows [0x1C, 0xAF]
    { tested with cc := CC.ofByte 0xFF } (fun t =>
      t.pc == 0x1002 && t.cc.toByte == 0xAF && t.ticks == 3) = true := by
  decide

/-- V42.22 ORCC #$50 -/
theorem test_orcc : shows [0x1A, 0x50]
    { tested with cc := CC.ofByte 0x00 } (fun t =>
      t.pc == 0x1002 && t.cc.toByte == 0x50 && t.ticks == 3) = true := by
  decide

/-- V42.24 DAA -/
theorem test_daa_carry : shows [0x19]
    { tested with a := 0x9A, cc := CC.ofByte 0x00 } (fun t =>
      t.a == 0x00 && t.pc == 0x1001 && butV t.cc == 0b0000011 && t.ticks == 2) = true := by
  decide

/-- V42.28 MUL -/
theorem test_mul_carry : shows [0x3D]
    { tested with a := 0x0C, b := 0x0B } (fun t =>
      t.a == 0x00 && t.b == 0x84 && t.pc == 0x1001 && t.cc.toByte == 0x01 && t.ticks == 11) = true := by
  decide

/-- V42.30 SEX -/
theorem test_sex_negative : shows [0x1D]
    { tested with b := 0x80 } (fun t =>
      t.a == 0xFF && t.pc == 0x1001 && t.cc.toByte == 0x08 && t.ticks == 2) = true := by
  decide

/-- V42.33 ABX -/
theorem test_abx_wraps : shows [0x3A]
    { tested with x := 0xFFFF, b := 0x01, cc := CC.ofByte 0x00 } (fun t =>
      t.x == 0x0000 && t.pc == 0x1001 && t.cc.toByte == 0x00 && t.ticks == 3) = true := by
  decide

/-- V43.02 NEGA -/
theorem test_nega_fixed_point : shows [0x40]
    { tested with a := 0x80 } (fun t =>
      t.pc == 0x1001 && butH t.cc == 0b0001011 && t.ticks == 2) = true := by
  decide

/-- V43.04 NEG <$00 -/
theorem test_neg_memory : shows [0x00, 0x00]
    { tested with dp := 0x20, ram := [(0x72000, 0x7F)] } (fun t =>
      t.pc == 0x1002 && butH t.cc == 0b0001001 && t.ram.read 0x72000 == 0x81 && t.ticks == 6) = true := by
  decide

/-- V43.06 COMB -/
theorem test_comb : shows [0x53]
    { tested with b := 0xFF, cc := CC.ofByte 0x02 } (fun t =>
      t.b == 0x00 && t.pc == 0x1001 && t.cc.toByte == 0x05 && t.ticks == 2) = true := by
  decide

/-- V43.08 LSRB -/
theorem test_lsrb_keeps_v : shows [0x54]
    { tested with b := 0x80, cc := CC.ofByte 0x02 } (fun t =>
      t.b == 0x40 && t.pc == 0x1001 && t.cc.toByte == 0x02 && t.ticks == 2) = true := by
  decide

/-- V43.09 RORA -/
theorem test_rora_carry_in : shows [0x46]
    { tested with a := 0x01, cc := CC.ofByte 0x01 } (fun t =>
      t.a == 0x80 && t.pc == 0x1001 && t.cc.toByte == 0x09 && t.ticks == 2) = true := by
  decide

/-- V43.12 ASRB -/
theorem test_asrb : shows [0x57]
    { tested with b := 0x01 } (fun t =>
      t.b == 0x00 && t.pc == 0x1001 && butH t.cc == 0b0000101 && t.ticks == 2) = true := by
  decide

/-- V43.13 ASLA -/
theorem test_asla : shows [0x48]
    { tested with a := 0x40 } (fun t =>
      t.a == 0x80 && t.pc == 0x1001 && butH t.cc == 0b0001010 && t.ticks == 2) = true := by
  decide

/-- V43.17 ROL <$00 -/
theorem test_rol_memory : shows [0x09, 0x00]
    { tested with dp := 0x20, cc := CC.ofByte 0x00, ram := [(0x72000, 0x80)] } (fun t =>
      t.pc == 0x1002 && t.cc.toByte == 0x07 && t.ram.read 0x72000 == 0x00 && t.ticks == 6) = true := by
  decide

/-- V43.20 DECB -/
theorem test_decb_keeps_c : shows [0x5A]
    { tested with b := 0x00, cc := CC.ofByte 0x01 } (fun t =>
      t.b == 0xFF && t.pc == 0x1001 && t.cc.toByte == 0x09 && t.ticks == 2) = true := by
  decide

/-- V43.22 INCA -/
theorem test_inca_overflow : shows [0x4C]
    { tested with a := 0x7F, cc := CC.ofByte 0x00 } (fun t =>
      t.a == 0x80 && t.pc == 0x1001 && t.cc.toByte == 0x0A && t.ticks == 2) = true := by
  decide

/-- V43.26 TST ,X -/
theorem test_tst_memory : shows [0x6D, 0x84]
    { tested with x := 0x2000, ram := [] } (fun t =>
      t.pc == 0x1002 && t.cc.toByte == 0x04 && t.ticks == 7) = true := by
  decide

/-- V43.27 CLRA -/
theorem test_clra_keeps_h : shows [0x4F]
    { tested with a := 0x99, cc := CC.ofByte 0x2B } (fun t =>
      t.a == 0x00 && t.pc == 0x1001 && t.cc.toByte == 0x24 && t.ticks == 2) = true := by
  decide

/-- V44.01 ADDD #$0001 -/
theorem test_addd_overflow : shows [0xC3, 0x00, 0x01]
    { tested with a := 0x7F, b := 0xFF } (fun t =>
      t.a == 0x80 && t.b == 0x00 && t.pc == 0x1003 && t.cc.toByte == 0x0A && t.ticks == 4) = true := by
  decide

/-- V44.04 SUBD #$0001 -/
theorem test_subd_overflow : shows [0x83, 0x00, 0x01]
    { tested with a := 0x80, b := 0x00 } (fun t =>
      t.a == 0x7F && t.b == 0xFF && t.pc == 0x1003 && t.cc.toByte == 0x02 && t.ticks == 4) = true := by
  decide

/-- V44.07 CMPY ,X -/
theorem test_cmpy_indexed : shows [0x10, 0xAC, 0x84]
    { tested with y := 0x0001, x := 0x2000, ram := [(0x72001, 0x02)] } (fun t =>
      t.pc == 0x1003 && t.cc.toByte == 0x09 && t.ticks == 8) = true := by
  decide

/-- V45.05 BHI (Z=1) -/
theorem test_bhi_not_taken : shows [0x22, 0x10]
    { tested with cc := CC.ofByte 0x04 } (fun t =>
      t.pc == 0x1002 && t.cc.toByte == 0x04 && t.ticks == 3) = true := by
  decide

/-- V45.07 BHS (C=0) -/
theorem test_bhs_back : shows [0x24, 0x80]
    { tested with cc := CC.ofByte 0x00 } (fun t =>
      t.pc == 0x0F82 && t.cc.toByte == 0x00 && t.ticks == 3) = true := by
  decide

/-- V45.17 BGT (N=V,Z=1) -/
theorem test_bgt_not_taken : shows [0x2E, 0x10]
    { tested with cc := CC.ofByte 0x04 } (fun t =>
      t.pc == 0x1002 && t.cc.toByte == 0x04 && t.ticks == 3) = true := by
  decide

/-- V45.21 LBEQ (taken) -/
theorem test_lbeq_taken : shows [0x10, 0x27, 0x00, 0x10]
    { tested with cc := CC.ofByte 0x04 } (fun t =>
      t.pc == 0x1014 && t.cc.toByte == 0x04 && t.ticks == 6) = true := by
  decide

/-- V45.22 LBEQ (not taken) -/
theorem test_lbeq_not_taken : shows [0x10, 0x27, 0x00, 0x10]
    { tested with cc := CC.ofByte 0x00 } (fun t =>
      t.pc == 0x1004 && t.cc.toByte == 0x00 && t.ticks == 5) = true := by
  decide

/-- V45.24 LBLT (taken) -/
theorem test_lblt_wraps : shows [0x10, 0x2D, 0xF0, 0x00]
    { tested with cc := CC.ofByte 0x02 } (fun t =>
      t.pc == 0x0004 && t.cc.toByte == 0x02 && t.ticks == 6) = true := by
  decide

/-- V45.25 BSR -/
theorem test_bsr : shows [0x8D, 0x10]
    { tested with sp := 0x0800 } (fun t =>
      t.sp == 0x07FE && t.pc == 0x1012 && t.cc.toByte == 0x00 && t.ram.read 0x707FE == 0x10 &&
      t.ram.read 0x707FF == 0x02 && t.ticks == 7) = true := by
  decide

/-- V45.31 JSR [,X] -/
theorem test_jsr_indirect : shows [0xAD, 0x94]
    { tested with sp := 0x0800, x := 0x2000, ram := [(0x72000, 0x30)] } (fun t =>
      t.sp == 0x07FE && t.pc == 0x3000 && t.cc.toByte == 0x00 && t.ram.read 0x707FE == 0x10 &&
      t.ram.read 0x707FF == 0x02 && t.ticks == 8) = true := by
  decide

/-- V45.33 RTS -/
theorem test_rts : shows [0x39]
    { tested with sp := 0x07FE, ram := [(0x707FE, 0x12), (0x707FF, 0x34)] } (fun t =>
      t.sp == 0x0800 && t.pc == 0x1234 && t.cc.toByte == 0x00 && t.ticks == 5) = true := by
  decide

/-- V46.02 PSHS PC,U,Y,X,DP,B,A,CC -/
theorem test_pshs_all : shows [0x34, 0xFF]
    { tested with
      sp := 0x0800, a := 0x11, b := 0x22, x := 0x3333, y := 0x4444, u := 0x5555, dp := 0x66, cc := CC.ofByte 0x0F } (fun t =>
      t.sp == 0x07F4 && t.pc == 0x1002 && t.cc.toByte == 0x0F && t.ram.read 0x707FE == 0x10 &&
      t.ram.read 0x707FF == 0x02 && t.ram.read 0x707F4 == 0x0F && t.ticks == 17) = true := by
  decide

/-- V46.06 PULU S -/
theorem test_pulu_s : shows [0x37, 0x40]
    { tested with u := 0x08FE, ram := [(0x708FE, 0x07)] } (fun t =>
      t.u == 0x0900 && t.sp == 0x0700 && t.pc == 0x1002 && t.cc.toByte == 0x00 && t.ticks == 7) = true := by
  decide

/-- V46.08 PSHS A (wrap) -/
theorem test_pshs_wraps : shows [0x34, 0x02]
    { tested with sp := 0x0000, a := 0x77 } (fun t =>
      t.sp == 0xFFFF && t.pc == 0x1002 && t.cc.toByte == 0x00 && t.ticks == 6) = true := by
  decide

/-- V46.13 TFR PC,X -/
theorem test_tfr_pc : shows [0x1F, 0x51]
    tested (fun t =>
      t.x == 0x1002 && t.pc == 0x1002 && t.cc.toByte == 0x00 && t.ticks == 6) = true := by
  decide

/-- V46.17 EXG D,X -/
theorem test_exg_d_x : shows [0x1E, 0x01]
    { tested with a := 0x12, b := 0x34, x := 0x5678 } (fun t =>
      t.a == 0x56 && t.b == 0x78 && t.x == 0x1234 && t.pc == 0x1002 && t.cc.toByte == 0x00 && t.ticks == 8) = true := by
  decide

/-- V47.02 SWI -/
theorem test_swi : shows [0x3F]
    { tested with
      sp := 0x0800, a := 0x11, b := 0x22, x := 0x3333, y := 0x4444, u := 0x5555, dp := 0x66, cc := CC.ofByte 0x00 } (fun t =>
      t.sp == 0x07F4 && t.pc == 0x7500 && t.cc.toByte == 0xD0 && t.ram.read 0x707FE == 0x10 &&
      t.ram.read 0x707FF == 0x01 && t.ram.read 0x707F4 == 0x80 && t.ticks == 19) = true := by
  decide

/-- V47.05 RTI (E=0) -/
theorem test_rti_reduced : shows [0x3B]
    { tested with sp := 0x07FD, ram := [(0x707FD, 0x01), (0x707FE, 0x20)] } (fun t =>
      t.sp == 0x0800 && t.pc == 0x2000 && t.cc.toByte == 0x01 && t.ticks == 6) = true := by
  decide

/-- V47.07 CWAI #$EF -/
theorem test_cwai : shows [0x3C, 0xEF]
    { tested with sp := 0x0800, cc := CC.ofByte 0x50 } (fun t =>
      t.sp == 0x07F4 && t.pc == 0x1002 && t.cc.toByte == 0xC0 && t.ram.read 0x707FE == 0x10 &&
      t.ram.read 0x707FF == 0x02 && t.ram.read 0x707F4 == 0xC0 && t.cwaiWait == true && t.ticks == 20) = true := by
  decide

/-- V47.08 SYNC -/
theorem test_sync : shows [0x13]
    tested (fun t =>
      t.pc == 0x1001 && t.cc.toByte == 0x00 && t.syncWait == true && t.ticks == 4) = true := by
  decide

/-- V60.01 NOP, IRQ latched, I = 0 -/
theorem test_irq_service : shows [0x12]
    { tested with sp := 0x0800, cc := CC.ofByte 0x00, irqLatch := true } (fun t =>
      t.sp == 0x07F4 && t.pc == 0x7400 && t.cc.toByte == 0x90 && t.ram.read 0x707FE == 0x10 &&
      t.ram.read 0x707FF == 0x01 && t.ram.read 0x707F4 == 0x80 && t.ticks == 2) = true := by
  decide

/-- V60.02 NOP, IRQ latched, I = 1 -/
theorem test_irq_masked : shows [0x12]
    { tested with sp := 0x0800, cc := CC.ofByte 0x10, irqLatch := true } (fun t =>
      t.pc == 0x1001 && t.cc.toByte == 0x10 && t.irqLatch == true && t.ticks == 2) = true := by
  decide

/-- V60.03 NOP, FIRQ latched, F = 0 -/
theorem test_firq_service : shows [0x12]
    { tested with sp := 0x0800, cc := CC.ofByte 0x10, firqLatch := true } (fun t =>
      t.sp == 0x07FD && t.pc == 0x7300 && t.cc.toByte == 0x50 && t.ram.read 0x707FE == 0x10 &&
      t.ram.read 0x707FF == 0x01 && t.ram.read 0x707FD == 0x10 && t.ticks == 2) = true := by
  decide

/-- V60.07 SYNC, IRQ latched, I = 1 -/
theorem test_sync_released : shows [0x13]
    { tested with cc := CC.ofByte 0x10, irqLatch := true } (fun t =>
      t.pc == 0x1001 && t.cc.toByte == 0x10 && t.irqLatch == true && t.ticks == 4) = true := by
  decide

/-! ### Witnesses: states and operands that meet the hypotheses of the statements -/

/-- A state with both stacks in RAM, executing from RAM at 0x1000. -/
def stacked : State := { tested with sp := 0x0800, u := 0x0900, pc := 0x1000 }

theorem exists_next {s : State} (h : completes s = true) : ∃ t, step s = .next t := by
  unfold completes at h
  cases hs : step s with
  | next t => exact ⟨t, rfl⟩
  | fault f => rw [hs] at h; cases h
  | refused r => rw [hs] at h; cases h

theorem test_witness_DecodeEncodeRoundTrip :
    (Instr.exg .a .dp).wf = true ∧ (Instr.tfr .d .pc).wf = true ∧ (Instr.lda (.mem (.idx (.extInd 0xFFFF)))).wf = true := by
  decide

theorem test_witness_DecodedBytesAreTheEncoding :
    decode .malformed [0xA6, 0x8C, 0xFE, 0x12] = .instr (.lda (.mem (.idx (.pcr8 0xFE false)))) [0x12] ∧
    decode .malformed [0x11, 0xA3, 0x9F, 0x20, 0x00] = .instr (.cmpu (.mem (.idx (.extInd 0x2000)))) [] := by decide

theorem test_witness_FiveBytesAreEnough : 5 ≤ ([0x11, 0xA3, 0x9F, 0x20, 0x00] : List Byte).length := by decide

/-- An undefined byte of each page, in RAM at PC (R176, R177). -/
theorem test_witness_UndefinedOpcodes :
    (let s := running [0xCF] stacked
     s.cwaiWait = false ∧ s.syncWait = false ∧ (fetchBytes 1 s).1 = [0xCF]) ∧
    (let s := running [0x10, 0x10] stacked
     s.cwaiWait = false ∧ s.syncWait = false ∧ (fetchBytes 2 s).1 = [0x10, 0x10]) ∧
    (let s := running [0x11, 0x8E] stacked
     s.cwaiWait = false ∧ s.syncWait = false ∧ (fetchBytes 2 s).1 = [0x11, 0x8E]) := by decide

theorem test_witness_IllegalIndexedPostbytes :
    page1 0xA6 = some (.idx fun ix => .lda (.mem (.idx ix))) ∧ page2 0xAE = some (.idx fun ix => .ldy (.mem (.idx ix))) ∧
    page3 0xA3 = some (.idx fun ix => .cmpu (.mem (.idx ix))) := ⟨rfl, rfl, rfl⟩

/-- Defined pairs at the ends of both code ranges, and undefined ones just outside and across them (R508, R509). -/
theorem test_witness_TransferPostbytes :
    let legal (c1 c2 : Nat) : Prop := (c1 ≤ 5 ∧ c2 ≤ 5) ∨ (8 ≤ c1 ∧ c1 ≤ 11 ∧ 8 ≤ c2 ∧ c2 ≤ 11)
    legal 0 5 ∧ legal 8 11 ∧ ¬ legal 5 8 ∧ ¬ legal 6 0 ∧ ¬ legal 12 8 ∧ ¬ legal 7 7 := by decide

theorem test_witness_StepRunsTheDecodedInstruction :
    let s := running [0x86, 0x80] stacked
    s.cwaiWait = false ∧ s.syncWait = false ∧ decode s.cfg.pcrRegBits (fetchBytes 2 s).1 = .instr (.lda (.imm 0x80)) [] := by
  decide

theorem test_witness_StepRunsTheEncodedInstruction :
    let s := running [0x86, 0x80] stacked
    s.cwaiWait = false ∧ s.syncWait = false ∧ (Instr.lda (.imm 0x80)).wf = true ∧
    encode (.lda (.imm 0x80)) = [0x86, 0x80] ∧ readByte s.pc s = (0x86, s) ∧ readByte (s.pc + 1) s = (0x80, s) := by decide

/-- Plain memory in RAM up to the I/O window, in system ROM, and in the vector window up to the top (R110). -/
theorem test_witness_FetchFrame :
    stacked.plainRun 0x1000 5 = true ∧ stacked.plainRun 0x8000 5 = true ∧ stacked.plainRun 0xFFFB 5 = true ∧
    State.plainRun { stacked with allRAM := true } 0xFEFB 5 = true ∧ stacked.plainRun 0xFEFF 2 = false := by decide

theorem test_witness_StepStopsAtTheOffendingByte :
    let s := running [0x11, 0x8E] stacked
    let t := running [0x30, 0x87] stacked
    s.cwaiWait = false ∧ s.syncWait = false ∧ t.cwaiWait = false ∧ t.syncWait = false ∧
    decode s.cfg.pcrRegBits (fetchBytes 1 s).1 = .more ∧
    decode s.cfg.pcrRegBits (fetchBytes 2 s).1 = .undefinedOpcode 0x118E ∧
    decode t.cfg.pcrRegBits (fetchBytes 1 t).1 = .more ∧
    decode t.cfg.pcrRegBits (fetchBytes 2 t).1 = .malformedOperand 0x87 := by decide

theorem test_witness_WaitStep :
    let s := { stacked with syncWait := true }
    (s.cwaiWait || s.syncWait) = true ∧ s.irqLatch = false ∧ s.firqLatch = false ∧ s.nmiLatch = false := by decide

theorem test_witness_MaskedInterruptsStayPending :
    let s := { stacked with cc := CC.ofByte 0x50, irqLatch := true, firqLatch := true, syncWait := true }
    (s.irqLatch = true → s.cc.i = true) ∧ (s.firqLatch = true → s.cc.f = true) ∧ s.nmiLatch = false := by decide

theorem test_witness_IrqService :
    let s := { stacked with cc := CC.ofByte 0x40, irqLatch := true, firqLatch := true }
    s.cwaiWait = false ∧ s.irqLatch = true ∧ s.cc.i = false ∧ (s.firqLatch = true → s.cc.f = true) ∧
    s.nmiLatch = false ∧ s.ramRun (s.sp - 12) 12 = true := by decide

theorem test_witness_FirqService :
    let s := { stacked with cc := CC.ofByte 0x10, irqLatch := true, firqLatch := true }
    s.cwaiWait = false ∧ s.firqLatch = true ∧ s.cc.f = false ∧ (s.irqLatch = true → s.cc.i = true) ∧
    s.nmiLatch = false ∧ s.ramRun (s.sp - 3) 3 = true := by decide

theorem test_witness_NmiService :
    let s := { stacked with cc := CC.ofByte 0x50, irqLatch := true, firqLatch := true, nmiLatch := true }
    s.cwaiWait = false ∧ s.nmiLatch = true ∧ (s.irqLatch = true → s.cc.i = true) ∧
    (s.firqLatch = true → s.cc.f = true) ∧ s.ramRun (s.sp - 12) 12 = true := by decide

theorem test_witness_ServiceFromCwai :
    let s := { stacked with cwaiWait := true }
    s.cwaiWait = true ∧ s.syncWait = false ∧
    (let t := { s with irqLatch := true }
     t.irqLatch = true ∧ t.cc.i = false ∧ (t.firqLatch = true → t.cc.f = true) ∧ t.nmiLatch = false) ∧
    (let t := { s with firqLatch := true }
     t.firqLatch = true ∧ t.cc.f = false ∧ (t.irqLatch = true → t.cc.i = true) ∧ t.nmiLatch = false) ∧
    (let t := { s with nmiLatch := true, irqLatch := true, cc := CC.ofByte 0x50 }
     t.nmiLatch = true ∧ (t.irqLatch = true → t.cc.i = true) ∧ (t.firqLatch = true → t.cc.f = true)) ∧
    (let t := { s with irqLatch := true, firqLatch := true, cc := CC.ofByte 0x80 }
     t.irqLatch = true ∧ t.cc.i = false ∧ t.firqLatch = true ∧ t.cc.f = false ∧ t.nmiLatch = false ∧
     t.ramRun (t.sp - 3) 3 = true) ∧
    (let t := { s with irqLatch := true, nmiLatch := true, firqLatch := true, cc := CC.ofByte 0xC0 }
     t.irqLatch = true ∧ t.cc.i = false ∧ (t.firqLatch = true → t.cc.f = true) ∧ t.nmiLatch = true ∧
     t.ramRun (t.sp - 12) 12 = true) ∧
    (let t := { s with firqLatch := true, nmiLatch := true, irqLatch := true, cc := CC.ofByte 0x90 }
     t.firqLatch = true ∧ t.cc.f = false ∧ (t.irqLatch = true → t.cc.i = true) ∧ t.nmiLatch = true ∧
     t.ramRun (t.sp - 12) 12 = true) ∧
    (let t := { s with irqLatch := true, firqLatch := true, nmiLatch := true, cc := CC.ofByte 0x80 }
     t.irqLatch = true ∧ t.cc.i = false ∧ t.firqLatch = true ∧ t.cc.f = false ∧ t.nmiLatch = true ∧
     t.ramRun (t.sp - 15) 15 = true) := by decide

theorem test_witness_AllThreeServicedInOrder :
    stacked.cwaiWait = false ∧
    (let s := { stacked with irqLatch := true, firqLatch := true, nmiLatch := true }
     s.irqLatch = true ∧ s.cc.i = false ∧ s.firqLatch = true ∧ s.cc.f = false ∧ s.nmiLatch = true ∧
     s.ramRun (s.sp - 27) 27 = true) ∧
    (let s := { stacked with irqLatch := true, firqLatch := true }
     s.irqLatch = true ∧ s.cc.i = false ∧ s.firqLatch = true ∧ s.cc.f = false ∧ s.nmiLatch = false ∧
     s.ramRun (s.sp - 15) 15 = true) ∧
    (let s := { stacked with irqLatch := true, firqLatch := true, nmiLatch := true, cc := CC.ofByte 0x40 }
     s.irqLatch = true ∧ s.cc.i = false ∧ (s.firqLatch = true → s.cc.f = true) ∧ s.nmiLatch = true ∧
     s.ramRun (s.sp - 24) 24 = true) ∧
    (let s := { stacked with irqLatch := true, firqLatch := true, nmiLatch := true, cc := CC.ofByte 0x10 }
     s.firqLatch = true ∧ s.cc.f = false ∧ (s.irqLatch = true → s.cc.i = true) ∧ s.nmiLatch = true ∧
     s.ramRun (s.sp - 15) 15 = true) := by decide

theorem test_witness_LatchesWaitForService :
    ∃ t, exec .nop { stacked with irqLatch := true, firqLatch := true, nmiLatch := true } = .next t := ⟨_, rfl⟩

theorem test_witness_StepKeepsTheInvariant :
    State.wf (running [0x86, 0x80] stacked) = true ∧ completes (running [0x86, 0x80] stacked) = true ∧
    State.wf (running [0x30, 0x87] stacked) = true ∧ completes (running [0x30, 0x87] stacked) = false := by decide

theorem test_witness_StepKeepsRomAndParameters : ∃ t, step (running [0x86, 0x80] stacked) = .next t :=
  exists_next (by decide)

/-- A step that stores outside the I/O window records nothing, so that its write list is empty. -/
theorem test_witness_MmuChangesOnlyThroughItsRegisters :
    shows [0x97, 0x10] stacked (fun t => decide (t.events = stacked.events ++ [])) = true := by decide

theorem test_witness_RamReadsLastWrite :
    stacked.ramAt 0x0000 = some 0x70000 ∧ stacked.ramAt 0x1FFF = some 0x71FFF ∧ stacked.ramAt 0x7FFF = some 0x77FFF ∧
    State.ramAt { stacked with allRAM := true } 0xFEFF = some 0x7FEFF ∧
    State.ramAt { stacked with mmuEnabled := true } 0xE000 = some 0 := by decide

theorem test_witness_Translation : stacked.mmuEnabled = false ∧ stacked.translate 0xFEFF = 0x7FEFF := by decide

theorem test_witness_SubtractAndCompare8 :
    stacked.cfg.undefFlags = .draw ∧
    ({ stacked with cfg := { stacked.cfg with undefFlags := .unchanged } }).cfg.undefFlags = .unchanged := by decide

/-- The four clauses at the ends of their ranges (R126, R127). -/
theorem test_witness_RomWritesAndAllRam :
    (0x8000 : Word).toNat < 0xFF00 ∧ stacked.allRAM = false ∧ 0x3C ≤ (stacked.physPage 0x8000).toNat ∧
    (0xFEFF : Word).toNat < 0xFF00 ∧ 0x3C ≤ (stacked.physPage 0xFEFF).toNat ∧ (stacked.physPage 0x7FFF).toNat = 0x3B ∧
    State.allRAM { stacked with allRAM := true } = true ∧ 0xFF00 ≤ (0xFF00 : Word).toNat := by decide

/-- The clauses of R125 at the ends of their ranges, and the ends of the vector window (R112). -/
theorem test_witness_RomReads :
    let off (s : State) (va : Word) := ((s.physPage va).toNat - 0x3C) * 8192 + va.toNat % 8192
    let cart := { stacked with cartSize := 0x4000 }
    (cart.allRAM = false ∧ cart.romMode = 0 ∧ 0x3C ≤ (cart.physPage 0xBFFF).toNat ∧ off cart 0xBFFF < 0x4000) ∧
    (off cart 0xC000 = 0x4000 ∧ off cart 0xC000 - 0x4000 < cart.cartSize) ∧ off cart 0xFEFF - 0x4000 < cart.cartSize ∧
    State.romMode { cart with romMode := 2 } = 2 ∧
    (State.romMode { cart with romMode := 3 } = 3 ∧ off cart 0xBFFF < cart.cartSize) ∧
    0xFFF0 ≤ (0xFFF0 : Word).toNat ∧ 0xFFF0 ≤ (0xFFFF : Word).toNat := by decide

theorem test_witness_MmuRegisterWrites :
    List.all [0xFF00, 0xFF8F, 0xFF92, 0xFF9F, 0xFFB0, 0xFFDD, 0xFFE0, 0xFFEF] (fun va : Word =>
      decide (0xFF00 ≤ va.toNat) && decide (va.toNat < 0xFFF0) && !isMmuRegister va) = true := by decide

theorem test_witness_DeviceAccesses :
    List.all [0xFF00, 0xFF9F, 0xFFB0, 0xFFEF] (fun va : Word =>
      decide (0xFF00 ≤ va.toNat) && decide (va.toNat < 0xFFF0) &&
        !(decide (0xFFA0 ≤ va.toNat) && decide (va.toNat ≤ 0xFFAF))) = true ∧
    List.all [0xFFA0, 0xFFA7, 0xFFA8, 0xFFAF] (fun va : Word =>
      decide (0xFFA0 ≤ va.toNat) && decide (va.toNat ≤ 0xFFAF)) = true ∧
    State.deviceAnswers { stacked with deviceAnswers := [⟨0x5A, true, false, false⟩] } = [⟨0x5A, true, false, false⟩] := by
  decide

theorem test_witness_WordAccess :
    stacked.ramRun 0x1FFF 2 = true ∧
    (let s := { stacked with ram := [(0x71FFF, 0x12), (0x72000, 0x34)] }
     readByte 0x1FFF s = (0x12, s) ∧ readByte (0x1FFF + 1) s = (0x34, s)) := by decide

/-- 99 + 99, the largest sum of two digits each, with and without a carry in (R323). -/
theorem test_witness_DecimalAddition :
    let decimal := fun v : Byte => v.toNat / 16 ≤ 9 ∧ v.toNat % 16 ≤ 9
    let s := { stacked with a := 0x99, cc := CC.ofByte 0x01 }
    decimal s.a ∧ decimal 0x99 ∧ (∃ t r, exec (.adda (.imm 0x99)) s = .next t ∧ exec .daa t = .next r) ∧
    (∃ t r, exec (.adca (.imm 0x99)) s = .next t ∧ exec .daa t = .next r) :=
  ⟨by decide, by decide, ⟨_, _, rfl, rfl⟩, ⟨_, _, rfl, rfl⟩⟩

theorem test_witness_StoringFrames :
    let m : MemOperand := .idx (.postInc2 .x false)
    let s := { stacked with x := 0x1FFF }
    (∃ t, exec (.sta m) s = .next t) ∧ (∃ t, exec (.sts m) s = .next t) ∧ (∃ t, exec (.neg m) s = .next t) ∧
    isMmuRegister (effectiveAddress m s).1 = false ∧ isMmuRegister ((effectiveAddress m s).1 + 1) = false ∧
    s.ramAt (effectiveAddress m s).1 ≠ some 0x72001 ∧ s.ramAt ((effectiveAddress m s).1 + 1) ≠ some 0x72001 :=
  ⟨⟨_, rfl⟩, ⟨_, rfl⟩, ⟨_, rfl⟩, by decide, by decide, by decide, by decide⟩

/-- Both comparisons at the end of the range, where the signed and the unsigned orders differ. -/
theorem test_witness_BranchesAfterCompare :
    let s := { stacked with a := 0x80, x := 0x8000 }
    (∃ t, exec (.cmpa (.imm 0x7F)) s = .next t) ∧ (∃ t, exec (.cmpx (.imm 0x7FFF)) s = .next t) ∧
    (0x7F : Byte).toNat < s.a.toNat ∧ s.a.toInt < (0x7F : Byte).toInt ∧ (0x7FFF : Word).toNat < s.x.toNat ∧
    s.x.toInt < (0x7FFF : Word).toInt := ⟨⟨_, rfl⟩, ⟨_, rfl⟩, by decide, by decide, by decide, by decide⟩

/-- The runs a push of every register, a return address and an entire frame store. -/
theorem test_witness_storesRun :
    stacked.ramRun (stacked.sp - 12) 12 = true ∧ avoidsMmu (stacked.sp - 12) 12 = true ∧
    stacked.reaches (stacked.sp - 12) 0x70800 12 = false ∧ stacked.ramRun (stacked.sp - 2) 2 = true ∧
    avoidsMmu 0xFFE0 12 = true ∧ avoidsMmu 0xFFDF 12 = false := by decide

theorem test_witness_Pull : stacked.plainRun stacked.sp 12 = true ∧ stacked.plainRun stacked.u (bytesMoved 0xFF) = true := by
  decide

theorem test_witness_PushThenPull :
    stacked.ramRun (stacked.sp - BitVec.ofNat 16 (bytesMoved 0xFF)) (bytesMoved 0xFF) = true ∧
    stacked.ramRun (stacked.u - BitVec.ofNat 16 (bytesMoved 0xFF)) (bytesMoved 0xFF) = true := by decide

theorem test_witness_TransferAndExchange :
    Reg.isWord .d = Reg.isWord .pc ∧ Reg.isWord .cc = Reg.isWord .a ∧ Reg.isWord .dp ≠ Reg.isWord .x ∧
    sharesStorage .b .d = true ∧ sharesStorage .a .b = false ∧ sharesStorage .dp .d = false := by decide

theorem test_witness_ReturnFromInterrupt :
    let s := { stacked with ram := [(0x70800, 0x80)] }
    (s.plainRun s.sp 12 = true ∧ (s.byteAt s.sp 0).getLsbD 7 = true) ∧
    (stacked.plainRun stacked.sp 3 = true ∧ (stacked.byteAt stacked.sp 0).getLsbD 7 = false) := by decide

theorem test_witness_InterruptThenReturn :
    stacked.ramRun (stacked.sp - 12) 12 = true ∧ Instr.swi3 ∈ ([.swi, .swi2, .swi3] : List Instr) := by decide

end Sys2Proof.Tests
end

section
/-! SUPPORT. The decoder is never cut short at five bytes (R160), so that a step answers a next state or one of the two
errors, and what every step and every error keeps. -/

namespace Sys2Proof

open Sys2Proof.Machine

/-- Three operand bytes are enough for every format (R163). -/
theorem decodeFormat_ne_more (p : PcrRegBits) (op : Word) (fmt : Option Format) (b1 b2 b3 : Byte) (rest : List Byte) :
    decodeFormat p op fmt (b1 :: b2 :: b3 :: rest) ≠ .more := by
  cases fmt with
  | none => nofun
  | some fmt =>
    cases fmt with
    | inh i | imm8 f | imm16 f | dir f | ext f => nofun
    | idx f =>
      simp only [decodeFormat, decodeIndexed]
      cases decodePostbyte p b1 <;> nofun
    | pair f =>
      simp only [decodeFormat, decodePairByte]
      cases decodePair b1 <;> nofun

/-- Five bytes are enough for every instruction, or hold an offending one (R160). -/
theorem decode_ne_more {p : PcrRegBits} {bs : List Byte} (h : 5 ≤ bs.length) : decode p bs ≠ .more := by
  match bs, h with
  | op :: b1 :: b2 :: b3 :: b4 :: rest, _ =>
    rw [decode]
    by_cases h10 : op = 0x10
    · rw [if_pos h10]
      exact decodeFormat_ne_more p _ _ b2 b3 b4 rest
    · rw [if_neg h10]
      by_cases h11 : op = 0x11
      · rw [if_pos h11]
        exact decodeFormat_ne_more p _ _ b2 b3 b4 rest
      · rw [if_neg h11]
        exact decodeFormat_ne_more p _ _ b1 b2 b3 (b4 :: rest)

end Sys2Proof

namespace Sys2Proof.Machine

/-- The state a result leaves: the next one, or the one an error carries (R607; log entry 11). -/
def Leaves (r : Result) (t : State) : Prop := r = .next t ∨ ∃ f, r = .fault f ∧ f.after = t

@[simp] theorem leaves_next (s t : State) : Leaves (.next s) t ↔ s = t := by simp [Leaves]

@[simp] theorem leaves_fault (f : Fault) (t : State) : Leaves (.fault f) t ↔ f.after = t := by simp [Leaves]

@[simp] theorem leaves_refused (q : Refusal) (t : State) : ¬ Leaves (.refused q) t := by simp [Leaves]

/-- An instruction that ends in an error leaves the state it began in (R602, R606; log entries 11, 17). -/
theorem exec_fault_after {i : Instr} {s : State} {f : Fault} (h : exec i s = .fault f) : f.after = s := by
  cases i with
  | tfr r1 r2 =>
    simp only [exec, execTfr] at h
    split at h
    · cases h
    · cases h
      rfl
  | exg r1 r2 =>
    simp only [exec, execExg] at h
    split at h
    · cases h
    · cases h
      rfl
  | _ => cases h

/-- What every instruction keeps of the state it runs in, CWAI, SYNC and the two errors included. -/
theorem exec_persists {i : Instr} {s t : State} (h : Leaves (exec i s) t) : Persists s t := by
  rcases h with h | ⟨f, h, rfl⟩
  · exact (exec_completes h).1.1.clearing t.cwaiWait t.syncWait t.irqLatch t.firqLatch t.nmiLatch
  · rw [exec_fault_after h]
    exact (Evolves.refl s).toPersists

/-- The service point comes after a next state alone (R600, R617). -/
theorem thenService_leaves {r : Result} {t : State} (h : Leaves (thenService r) t) :
    ∃ u, Leaves r u ∧ Persists u t := by
  cases r with
  | next u =>
    obtain rfl := (leaves_next _ _).mp h
    exact ⟨u, (leaves_next u u).mpr rfl, (service_serves u).1⟩
  | fault f => exact ⟨t, h, (Evolves.refl t).toPersists⟩
  | refused q => exact absurd h (leaves_refused q t)

/-- What every step keeps, and what the state an error leaves keeps (R6, R78, R113, R126, R604, R606). -/
theorem step_persists {s t : State} (h : Leaves (step s) t) : Persists s t := by
  rcases step_cases s with ⟨-, e⟩ | ⟨-, ⟨n, i, -, -, -, e⟩ | ⟨n, op, -, -, e⟩ | ⟨n, pb, -, -, e⟩ | hmore⟩
  · rw [e, leaves_next] at h
    exact h ▸ ((Evolves.refl s).tick 1 le_rfl).1.toPersists.trans (service_serves _).1
  · rw [e] at h
    obtain ⟨u, hu, hut⟩ := thenService_leaves h
    exact ((Evolves.fetchBytes (n + 1) s).toPersists.trans (exec_persists hu)).trans hut
  · rw [e, leaves_fault] at h
    exact h ▸ (Evolves.fetchBytes (n + 1) s).toPersists
  · rw [e, leaves_fault] at h
    exact h ▸ (Evolves.fetchBytes (n + 1) s).toPersists
  · exact absurd hmore (decode_ne_more (fetchBytes_length 5 s).ge)

/-- Settles O25: `Persists`, which the fetch, the instruction and the service point all keep. -/
theorem stepKeepsRomAndParameters : Obligations.StepKeepsRomAndParameters := by
  intro s t h
  have hp := step_persists h
  obtain ⟨l, hl, -⟩ := hp.events
  exact ⟨hp.sysRom, hp.cartRom, hp.cartSize, hp.cfg, ⟨l, hl⟩, hp.draws⟩

end Sys2Proof.Machine
end

section
/-! SUPPORT. The 8-bit subtractions, compares and DAA in the terms of the spec's text. -/

namespace Sys2Proof.Machine

namespace Flags

/-- `Sub8` with C the borrow and V the signed difference out of range (R62, R301). -/
theorem sub8_eq (a m : Byte) (cin : Bool) (cc : CC) :
    let res := BitVec.ofInt 8 ((a.toNat : Int) - m.toNat - cin.toNat)
    let signed := a.toInt - m.toInt - cin.toNat
    sub8 a m cin cc = (res, { cc with
      n := res.getLsbD 7, z := decide (res = 0), v := decide (signed < -128 ∨ 127 < signed)
      c := decide (a.toNat < m.toNat + cin.toNat) }) := by
  intro res signed
  have hc : ((a.toNat : Int) - m.toNat - cin.toNat < 0) ↔ a.toNat < m.toNat + cin.toNat := by omega
  simp only [sub8, nz8_eq, sub8_v, hc, res, signed]

/-- The low correction is 6 and the high one 96, each where its condition of R323 holds. -/
theorem daaCorrection_eq (a : Byte) (cc : CC) :
    daaCorrection a cc = (if cc.h = true ∨ 9 < a.toNat % 16 then 0x06 else 0x00) |||
      (if cc.c = true ∨ 9 < a.toNat / 16 ∨ (8 < a.toNat / 16 ∧ 9 < a.toNat % 16) then 0x60 else 0x00) := by
  have hl : (a.extractLsb' 0 4).toNat = a.toNat % 16 := by simp [BitVec.extractLsb'_toNat]
  have hh : (a.extractLsb' 4 4).toNat = a.toNat / 16 := by
    have ha := a.isLt
    simp only [BitVec.extractLsb'_toNat, Nat.shiftRight_eq_div_pow]
    omega
  simp only [daaCorrection, BitVec.lt_def, hl, hh]
  rfl

/-- DAA with C set by a high correction and never cleared (R323). -/
theorem daa_eq (a : Byte) (cc : CC) :
    let low := cc.h = true ∨ 9 < a.toNat % 16
    let high := cc.c = true ∨ 9 < a.toNat / 16 ∨ (8 < a.toNat / 16 ∧ 9 < a.toNat % 16)
    let res := BitVec.ofNat 8 (a.toNat + (if low then 6 else 0) + (if high then 96 else 0))
    daa a cc = (res, { cc with n := res.getLsbD 7, z := decide (res = 0), c := decide high }) := by
  intro low high res
  have hcf : daaCorrection a cc = (if low then 0x06 else 0x00) ||| (if high then 0x60 else 0x00) := daaCorrection_eq a cc
  have hres : a + daaCorrection a cc = res := by
    apply BitVec.eq_of_toNat_eq
    rw [hcf]
    by_cases hl : low <;> by_cases hh : high <;> simp [res, hl, hh]
  have hcarry : (cc.c || (daaCorrection a cc).extractLsb' 4 3 != 0) = decide high := by
    rw [hcf]
    by_cases hh : high
    · by_cases hl : low <;> simp [hl, hh]
    · have hc : cc.c = false := by simpa using fun h => hh (.inl h)
      by_cases hl : low <;> simp [hl, hh, hc]
  simp only [daa, hres, hcarry, nz8_eq]

end Flags

/-- An operand read, then H per `UNDEF_FLAGS` (R202, R207, R301). -/
theorem drawH_operand8 (o : Operand8) (s : State) :
    drawH (operand8 o s).2 = (drawFlag s.cc.h (afterOperand8 o s)).2.setCC
      { s.cc with h := (drawFlag s.cc.h (afterOperand8 o s)).1 } := by
  have h : (operand8 o s).2 = afterOperand8 o s := operand8_frame o s
  rw [h, drawH_eq]
  rfl

/-- Drawing a flag keeps A, B and the tick sum. -/
theorem drawFlag_keeps (old : Bool) (s : State) :
    (drawFlag old s).2.a = s.a ∧ (drawFlag old s).2.b = s.b ∧ (drawFlag old s).2.ticks = s.ticks := by
  rw [drawFlag_frame]
  exact ⟨rfl, rfl, rfl⟩

/-- Reading an operand and drawing a flag keep A, B and the tick sum. -/
theorem drawFlag_afterOperand8 (old : Bool) (o : Operand8) (s : State) :
    (drawFlag old (afterOperand8 o s)).2.a = s.a ∧ (drawFlag old (afterOperand8 o s)).2.b = s.b ∧
    (drawFlag old (afterOperand8 o s)).2.ticks = s.ticks :=
  drawFlag_keeps old (afterOperand8 o s)

section
variable {get : State → Byte} {set : State → Byte → State} {o : Operand8} {s : State} {v : Byte} {cc : CC}
  (hget : ∀ c, get ((drawFlag s.cc.h (afterOperand8 o s)).2.setCC c) = get s)

include hget in
/-- A subtraction, by what `Sub8` gives of the register, the operand and C of the state before (R301, R307-R310). -/
theorem subtract8_eq {borrow : Bool} (hset : ∀ t n, (set t v).tick n = set (t.tick n) v)
    (hsub : Flags.sub8 (get s) (operand8 o s).1 (borrow && s.cc.c)
      { s.cc with h := (drawFlag s.cc.h (afterOperand8 o s)).1 } = (v, cc)) :
    subtract8 get set borrow o s =
      set { (drawFlag s.cc.h (afterOperand8 o s)).2 with cc := cc, ticks := s.ticks + ticks8 2 o } v := by
  obtain ⟨-, -, ht⟩ := drawFlag_afterOperand8 s.cc.h o s
  simp only [subtract8, drawH_operand8, hget, State.setCC_cc, hsub, hset]
  rw [← ht]
  rfl

include hget in
/-- A compare, by what `Sub8` gives (R301, R311, R312). -/
theorem compare8_eq (hsub : Flags.sub8 (get s) (operand8 o s).1 false
      { s.cc with h := (drawFlag s.cc.h (afterOperand8 o s)).1 } = (v, cc)) :
    compare8 get o s =
      { (drawFlag s.cc.h (afterOperand8 o s)).2 with cc := cc, ticks := s.ticks + ticks8 2 o } := by
  obtain ⟨-, -, ht⟩ := drawFlag_afterOperand8 s.cc.h o s
  simp only [compare8, drawH_operand8, hget, State.setCC_cc, hsub]
  rw [← ht]
  rfl

end

/-- Settles O40: each instruction is a subtraction or a compare of A or B, and `Sub8` is what the statement says. -/
theorem subtractAndCompare8 : Obligations.SubtractAndCompare8 := by
  refine ⟨fun old s => ⟨fun h => drawFlag_unchanged h old, fun h => drawFlag_draw h old⟩, ?_⟩
  intro s o m h r res signed cc
  obtain ⟨ha, hb, -⟩ := drawFlag_afterOperand8 s.cc.h o s
  have hsub (a : Byte) (cin : Bool) : Flags.sub8 a m cin { s.cc with h := h } = (res a cin, cc a cin) :=
    Flags.sub8_eq a m cin _
  refine ⟨?suba, ?subb, ?sbca, ?sbcb, ?cmpa, ?cmpb⟩
  case suba => exact congrArg Host.Outcome.next (subtract8_eq (fun _ => ha) (fun _ _ => rfl) (hsub s.a false))
  case subb => exact congrArg Host.Outcome.next (subtract8_eq (fun _ => hb) (fun _ _ => rfl) (hsub s.b false))
  case sbca => exact congrArg Host.Outcome.next (subtract8_eq (fun _ => ha) (fun _ _ => rfl) (hsub s.a s.cc.c))
  case sbcb => exact congrArg Host.Outcome.next (subtract8_eq (fun _ => hb) (fun _ _ => rfl) (hsub s.b s.cc.c))
  case cmpa => exact congrArg Host.Outcome.next (compare8_eq (fun _ => ha) (hsub s.a false))
  case cmpb => exact congrArg Host.Outcome.next (compare8_eq (fun _ => hb) (hsub s.b false))

/-- Settles O43: V is drawn, and the law of DAA is what the statement says. -/
theorem decimalAdjust : Obligations.DecimalAdjust := by
  intro s low high res v r
  obtain ⟨ha, -, ht⟩ := drawFlag_keeps s.cc.v s
  have hdaa : Flags.daa s.a { s.cc with v := v } =
      (res, { s.cc with n := res.getLsbD 7, z := decide (res = 0), v := v, c := decide high }) := Flags.daa_eq s.a _
  show execDaa s = _
  simp only [execDaa, drawV_eq, State.setCC, State.setA, State.tick]
  rw [ha, hdaa, ht]

end Sys2Proof.Machine
end

section
/-! SUPPORT. The invariant of the state is kept by every step, and the MMU is changed by a recorded write alone. -/

namespace Sys2Proof.Machine

/-- At most one wait (R80, R81): the clause of the invariant that `Persists` does not keep. -/
def WaitsApart (s : State) : Prop := (s.cwaiWait && s.syncWait) = false

/-- The invariant, clause by clause (R6, R78, R80, R81). -/
theorem wf_iff (s : State) : s.wf = true ↔
    Memory.wf 0 Config.ramSize s.ram = true ∧ Memory.wf 0 Config.romSize s.sysRom = true ∧
      Memory.wf 0 s.cartSize s.cartRom = true ∧ s.cartSize ≤ Config.romSize ∧ WaitsApart s := by
  simp only [State.wf, WaitsApart, Bool.and_eq_true, Bool.not_eq_true', decide_eq_true_eq, and_assoc]

/-- `Persists` keeps every clause of the invariant but the one about the waits. -/
theorem Persists.wf {s t : State} (h : Persists s t) (hs : s.wf = true) (hw : WaitsApart t) : t.wf = true := by
  rw [wf_iff] at hs ⊢
  obtain ⟨hram, hsys, hcart, hsize, -⟩ := hs
  rw [h.sysRom, h.cartRom, h.cartSize]
  exact ⟨h.ram hram, hsys, hcart, hsize, hw⟩

theorem waitsApart_of_not_waiting {s : State} (h : (s.cwaiWait || s.syncWait) = false) : WaitsApart s := by
  rw [WaitsApart, (Bool.or_eq_false_iff.mp h).1, Bool.false_and]

/-- The service point begins no wait (R611-R622, R627). -/
theorem Serves.waitsApart {s t : State} (h : Serves s t) (hs : WaitsApart s) : WaitsApart t := by
  obtain ⟨-, hc, hy⟩ := h
  rw [WaitsApart, Bool.eq_false_iff, ne_eq, Bool.and_eq_true] at hs ⊢
  exact fun ⟨h1, h2⟩ => hs ⟨hc h1, hy h2⟩

/-- An instruction begins one wait at most, so that none was held before it is enough (R80, R81). -/
theorem exec_waitsApart {i : Instr} {s u : State} (hs : (s.cwaiWait || s.syncWait) = false)
    (h : Leaves (exec i s) u) : WaitsApart u := by
  rcases h with h | ⟨f, h, rfl⟩
  · obtain ⟨hc, hy⟩ := Bool.or_eq_false_iff.mp hs
    rcases (exec_completes h).2 with e | e
    · rw [WaitsApart, e, hc, Bool.false_and]
    · rw [WaitsApart, e, hy, Bool.and_false]
  · rw [exec_fault_after h]
    exact waitsApart_of_not_waiting hs

/-- The service point, which comes after a next state alone, begins no wait either (R600, R617). -/
theorem thenService_waitsApart {r : Result} {t : State} (hr : ∀ u, Leaves r u → WaitsApart u)
    (h : Leaves (thenService r) t) : WaitsApart t := by
  cases r with
  | next u => exact (leaves_next _ _).mp h ▸ (service_serves u).waitsApart (hr u ((leaves_next u u).mpr rfl))
  | fault f => exact hr t h
  | refused q => exact absurd h (leaves_refused q t)

/-- The fetch touches no wait. -/
theorem fetchBytes_waits (n : Nat) (s : State) :
    ((fetchBytes n s).2.cwaiWait || (fetchBytes n s).2.syncWait) = (s.cwaiWait || s.syncWait) := by
  obtain ⟨hc, hy⟩ := (Evolves.fetchBytes n s).waits
  rw [hc, hy]

/-- A step leaves at most one wait, after an error too (R80, R81, R604, R606). -/
theorem step_waitsApart {s t : State} (hs : WaitsApart s) (h : Leaves (step s) t) : WaitsApart t := by
  rcases step_cases s with ⟨-, e⟩ | ⟨hw, ⟨n, i, -, -, -, e⟩ | ⟨n, op, -, -, e⟩ | ⟨n, pb, -, -, e⟩ | hmore⟩
  · rw [e, leaves_next] at h
    exact h ▸ (service_serves (s.tick 1)).waitsApart hs
  · rw [e] at h
    exact thenService_waitsApart (fun u => exec_waitsApart ((fetchBytes_waits (n + 1) s).trans hw)) h
  · rw [e, leaves_fault] at h
    exact h ▸ waitsApart_of_not_waiting ((fetchBytes_waits (n + 1) s).trans hw)
  · rw [e, leaves_fault] at h
    exact h ▸ waitsApart_of_not_waiting ((fetchBytes_waits (n + 1) s).trans hw)
  · exact absurd hmore (decode_ne_more (fetchBytes_length 5 s).ge)

/-- The invariant is kept by every step and by every error (R78, R80, R81, R604, R606). -/
theorem step_wf {s t : State} (hs : s.wf = true) (h : Leaves (step s) t) : t.wf = true := by
  obtain ⟨-, -, -, -, hw⟩ := (wf_iff s).mp hs
  exact (step_persists h).wf hs (step_waitsApart hw h)

/-- Settles O24: `step_persists` keeps the memories, `step_waitsApart` the waits. -/
theorem stepKeepsTheInvariant : Obligations.StepKeepsTheInvariant :=
  fun _ hs => ⟨fun _ h => step_wf hs (.inl h), fun f h => step_wf hs (.inr ⟨f, h, rfl⟩)⟩

/-- Settles O23: nothing is listed at reset, and no wait is held. -/
theorem resetMeetsTheInvariant : Obligations.ResetMeetsTheInvariant := by
  have hsize : State.reset.cartSize ≤ Config.romSize := Nat.zero_le _
  exact (wf_iff _).mpr ⟨State.reset_ram_wf, rfl, rfl, hsize, rfl⟩

/-- Settles O26: of `step_persists`, the clause about the events; the events a step appends are determined. -/
theorem mmuChangesOnlyThroughItsRegisters : Obligations.MmuChangesOnlyThroughItsRegisters := by
  intro s t l h he hl
  obtain ⟨l', he', hmmu⟩ := (step_persists (.inl h)).events
  obtain rfl : l' = l := List.append_cancel_left (he'.symm.trans he)
  exact hmmu hl

end Sys2Proof.Machine
end

section
/-! SUPPORT. What a fetch does, and the step on the bytes of an instruction. -/

namespace Sys2Proof.Machine

theorem add_ofNat_succ (w : Word) (n : Nat) : w + BitVec.ofNat 16 (n + 1) = w + BitVec.ofNat 16 n + 1 := by
  rw [BitVec.ofNat_add, ← BitVec.add_assoc]
  rfl

/-! ### A byte read does not depend on PC -/

theorem deviceRead_setPc (va w : Word) (s : State) :
    deviceRead va (s.setPc w) = ((deviceRead va s).1, (deviceRead va s).2.setPc w) := by
  simp only [deviceRead, State.record_deviceAnswers, State.setPc_deviceAnswers]
  split <;> rfl

theorem cartRead_setPc (o : Nat) (w : Word) (s : State) :
    cartRead o (s.setPc w) = ((cartRead o s).1, (cartRead o s).2.setPc w) := by
  have hdraw : drawByte (s.setPc w) = ((drawByte s).1, (drawByte s).2.setPc w) := rfl
  by_cases h : o < s.cartSize <;> simp [cartRead, h, hdraw]

theorem romRead_setPc (va w : Word) (s : State) :
    romRead va (s.setPc w) = ((romRead va s).1, (romRead va s).2.setPc w) := by
  have hoff : (s.setPc w).romOffset va = s.romOffset va := rfl
  by_cases h3 : s.romMode = 0b11
  · simp [romRead, hoff, h3, cartRead_setPc]
  · by_cases h2 : s.romMode = 0b10 ∨ s.romOffset va < 0x4000 <;>
      simp only [romRead, hoff, h3, h2, State.setPc_romMode, State.setPc_sysRom, cartRead_setPc, if_true, if_false]

/-- A byte read neither looks at PC nor moves it (R110). -/
theorem readByte_setPc (va w : Word) (s : State) :
    readByte va (s.setPc w) = ((readByte va s).1, (readByte va s).2.setPc w) := by
  have hover : (s.setPc w).overlaid va = s.overlaid va := rfl
  have htrans : (s.setPc w).translate va = s.translate va := rfl
  have hpar : parRead va (s.setPc w) = ((parRead va s).1, (parRead va s).2.setPc w) := rfl
  by_cases hv : inVectors va = true
  · simp [readByte, hv]
  by_cases hio : inIo va = true
  · by_cases hp : isPar va = true <;> simp [readByte, hv, hio, hp, hpar, deviceRead_setPc]
  by_cases ho : s.overlaid va = true <;> simp [readByte, hv, hio, hover, ho, htrans, romRead_setPc]

/-! ### Fetching -/

/-- Fetching advances PC and changes nothing else but what `busFrame` lists (R57, R166). -/
theorem fetchBytes_frame (n : Nat) (s : State) :
    (fetchBytes n s).2 = { busFrame s (fetchBytes n s).2 with pc := s.pc + BitVec.ofNat 16 n } := by
  induction n with
  | zero => simp [fetchBytes, busFrame]
  | succ n ih =>
    rw [fetchBytes_succ, add_ofNat_succ]
    simp only
    rw [fetch8_frame, ih]
    rfl

/-- Bytes whose reads leave the state alone are fetched as they stand, and only PC moves (R108, R166). -/
theorem fetchBytes_plain {n : Nat} {s : State} (h : ∀ k < n, (readByte (s.pc + BitVec.ofNat 16 k) s).2 = s) :
    fetchBytes n s = ((List.range n).map (s.byteAt s.pc), s.setPc (s.pc + BitVec.ofNat 16 n)) := by
  induction n with
  | zero => simp [fetchBytes, State.setPc]
  | succ n ih =>
    rw [fetchBytes_succ, ih fun k hk => h k (by omega), List.range_succ, List.map_append, add_ofNat_succ]
    simp only [fetch8, State.setPc_pc, readByte_setPc, h n n.lt_succ_self]
    rfl

/-- Settles O10: `fetchBytes_frame`, and `fetchBytes_plain` where every read is plain. -/
theorem fetchFrame : Obligations.FetchFrame := by
  intro n s
  refine ⟨fetchBytes_frame n s, fun h => ?_⟩
  have hplain := fetchBytes_plain fun k hk => readByte_plain _ s (plainRun_byte h k hk)
  rw [hplain]
  exact ⟨rfl, rfl⟩

/-- Where the bytes at PC are an instruction with nothing left over, the step runs it: the length at which fetched bytes
are no longer cut short is unique (R57, R600). -/
theorem step_of_decode {s : State} {n : Nat} {i : Instr} (hw : (s.cwaiWait || s.syncWait) = false)
    (h : decode s.cfg.pcrRegBits (fetchBytes n s).1 = .instr i []) :
    step s = thenService (exec i (fetchBytes n s).2) := by
  cases n with
  | zero => cases h
  | succ n =>
    have hmore : decode s.cfg.pcrRegBits (fetchBytes n s).1 = .more := by
      have hs := h
      rw [fetchBytes_succ] at hs
      exact decode_short hs (List.cons_ne_nil _ _)
    have hlength {m : Nat} := fetch_length_unique (m := m) hmore (by rw [h]; nofun)
    rcases step_cases s with ⟨hw', -⟩ | ⟨-, ⟨m, j, rest, hd, hm, e⟩ | ⟨m, op, hd, hm, -⟩ | ⟨m, pb, hd, hm, -⟩ | h5⟩
    · rw [hw] at hw'
      cases hw'
    · obtain rfl := hlength hm (by rw [hd]; nofun)
      obtain ⟨rfl, -⟩ := Decoded.instr.inj (hd.symm.trans h)
      exact e
    · obtain rfl := hlength hm (by rw [hd]; nofun)
      cases hd.symm.trans h
    · obtain rfl := hlength hm (by rw [hd]; nofun)
      cases hd.symm.trans h
    · exact absurd h5 (decode_ne_more (fetchBytes_length 5 s).ge)

end Sys2Proof.Machine
end

section
/-! SUPPORT. The decoder gives back what the encoder was given. -/

namespace Sys2Proof

open Sys2Proof.Machine

/-- The bytes `pre` are the opcode of a format: what follows them is decoded by it (R161-R163). -/
def Opens (p : PcrRegBits) (pre : List Byte) (fmt : Format) : Prop :=
  ∃ op, ∀ rest, decode p (pre ++ rest) = decodeFormat p op (some fmt) rest

section
variable {p : PcrRegBits} {pre : List Byte} (rest : List Byte)

/-- 0x10 and 0x11, which name pages 2 and 3, are no opcodes of page 1 (R162). -/
theorem opcode_ne {op : Byte} {fmt : Format} (h : page1 op.toNat = some fmt) : op ≠ 0x10 ∧ op ≠ 0x11 := by
  constructor <;> (rintro rfl; cases h)

theorem opens_page1 {op : Byte} {fmt : Format} (h : page1 op.toNat = some fmt) : Opens p [op] fmt := by
  obtain ⟨h10, h11⟩ := opcode_ne h
  refine ⟨word 0 op, fun rest => ?_⟩
  simp only [List.singleton_append, decode, h10, h11, if_false, h]

theorem opens_page2 {op : Byte} {fmt : Format} (h : page2 op.toNat = some fmt) : Opens p [0x10, op] fmt :=
  ⟨word 0x10 op, fun _ => by simp only [List.cons_append, List.nil_append, decode, if_true, h]⟩

theorem opens_page3 {op : Byte} {fmt : Format} (h : page3 op.toNat = some fmt) : Opens p [0x11, op] fmt :=
  ⟨word 0x11 op, fun _ => by
    have h11 : (0x11 : Byte) ≠ 0x10 := by decide
    simp only [List.cons_append, List.nil_append, decode, h11, if_true, if_false, h]⟩

/-! ### The formats (R163) -/

theorem decode_inh {i : Instr} (h : Opens p pre (.inh i)) : decode p (pre ++ rest) = .instr i rest := by
  obtain ⟨op, h⟩ := h
  exact h rest

theorem decode_imm8 {f : Byte → Instr} (h : Opens p pre (.imm8 f)) (v : Byte) :
    decode p (pre ++ [v] ++ rest) = .instr (f v) rest := by
  obtain ⟨op, h⟩ := h
  rw [List.append_assoc, h]
  rfl

theorem decode_imm16 {f : Word → Instr} (h : Opens p pre (.imm16 f)) (v : Word) :
    decode p (pre ++ [hiByte v, loByte v] ++ rest) = .instr (f v) rest := by
  obtain ⟨op, h⟩ := h
  rw [List.append_assoc, h]
  simp [decodeFormat, decodeWord]

theorem decode_dir {f : Byte → Instr} (h : Opens p pre (.dir f)) (v : Byte) :
    decode p (pre ++ [v] ++ rest) = .instr (f v) rest :=
  decode_imm8 rest h v

theorem decode_ext {f : Word → Instr} (h : Opens p pre (.ext f)) (v : Word) :
    decode p (pre ++ [hiByte v, loByte v] ++ rest) = .instr (f v) rest :=
  decode_imm16 rest h v

theorem decode_pair {f : Reg → Reg → Instr} (h : Opens p pre (.pair f)) {r1 r2 : Reg}
    (hr : pairDefined r1 r2 = true) : decode p (pre ++ [pairByte r1 r2] ++ rest) = .instr (f r1 r2) rest := by
  obtain ⟨op, h⟩ := h
  rw [List.append_assoc, h]
  simp [decodeFormat, decodePairByte, decodePair_pairByte hr]

/-! ### Indexed operands -/

/-- A postbyte with bit 7 clear is a 5-bit offset (R212). -/
theorem decodePostbyte_off5 (r : IndexReg) (n : BitVec 5) :
    decodePostbyte p ((0#1 ++ r.code) ++ n) = .done (.off5 r n) := by
  obtain ⟨h7, hr, hn⟩ : ((0#1 ++ r.code) ++ n).getLsbD 7 = false ∧ ((0#1 ++ r.code) ++ n).extractLsb' 5 2 = r.code ∧
      ((0#1 ++ r.code) ++ n).extractLsb' 0 5 = n := by
    cases r <;> revert n <;> decide
  simp only [decodePostbyte, h7, if_true, hr, hn, IndexReg.ofCode_code]

/-- The postbyte names the form, and its offset bytes follow (R171, R210-R225). -/
theorem decodeIndexed_encodeIndexed (f : Indexed → Instr) (ix : Indexed) :
    decodeIndexed p f (encodeIndexed ix ++ rest) = .instr (f ix) rest := by
  cases ix with
  | off5 r n => simp only [encodeIndexed, List.singleton_append, decodeIndexed, decodePostbyte_off5]
  | postInc1 r | preDec1 r => cases r <;> rfl
  | postInc2 r ind | preDec2 r ind | zero r ind | accB r ind | accA r ind | accD r ind | off8 r n ind =>
    cases r <;> cases ind <;> rfl
  | off16 r n ind =>
    have h : decodePostbyte p (postbyte r.code ind 0x9) = .offset16 fun n => .off16 r n ind := by
      cases r <;> cases ind <;> rfl
    simp only [encodeIndexed, decodeIndexed, h, decodeWord, List.cons_append, List.nil_append, word_hiByte_loByte]
  | pcr8 n ind => cases p <;> cases ind <;> rfl
  | pcr16 n ind =>
    have h : decodePostbyte p (postbyte 0 ind 0xD) = .offset16 fun n => .pcr16 n ind := by
      cases p <;> cases ind <;> rfl
    simp only [encodeIndexed, decodeIndexed, h, decodeWord, List.cons_append, List.nil_append, word_hiByte_loByte]
  | extInd n =>
    have h : decodePostbyte p (postbyte 0 true 0xF) = .offset16 fun n => .extInd n := by
      cases p <;> rfl
    simp only [encodeIndexed, decodeIndexed, h, decodeWord, List.cons_append, List.nil_append, word_hiByte_loByte]

theorem decode_idx {f : Indexed → Instr} (h : Opens p pre (.idx f)) (ix : Indexed) :
    decode p (pre ++ encodeIndexed ix ++ rest) = .instr (f ix) rest := by
  obtain ⟨op, h⟩ := h
  rw [List.append_assoc, h]
  exact decodeIndexed_encodeIndexed rest f ix

/-! ### The addressing forms -/

section
variable {imm dir idx ext : Byte}

theorem decode_encodeMem {f : MemOperand → Instr} (hd : Opens p (pre ++ [dir]) (.dir fun v => f (.dir v)))
    (hx : Opens p (pre ++ [idx]) (.idx fun ix => f (.idx ix))) (he : Opens p (pre ++ [ext]) (.ext fun a => f (.ext a)))
    (m : MemOperand) : decode p (pre ++ encodeMem dir idx ext m ++ rest) = .instr (f m) rest := by
  cases m with
  | dir v => simpa [encodeMem] using decode_dir rest hd v
  | idx ix => simpa [encodeMem] using decode_idx rest hx ix
  | ext a => simpa [encodeMem] using decode_ext rest he a

theorem decode_encode8 {f : Operand8 → Instr} (hi : Opens p (pre ++ [imm]) (.imm8 fun v => f (.imm v)))
    (hd : Opens p (pre ++ [dir]) (.dir fun v => f (.mem (.dir v))))
    (hx : Opens p (pre ++ [idx]) (.idx fun ix => f (.mem (.idx ix))))
    (he : Opens p (pre ++ [ext]) (.ext fun a => f (.mem (.ext a)))) (o : Operand8) :
    decode p (pre ++ encode8 imm dir idx ext o ++ rest) = .instr (f o) rest := by
  cases o with
  | imm v => simpa [encode8] using decode_imm8 rest hi v
  | mem m => exact decode_encodeMem (f := fun m => f (.mem m)) rest hd hx he m

theorem decode_encode16 {f : Operand16 → Instr} (hi : Opens p (pre ++ [imm]) (.imm16 fun v => f (.imm v)))
    (hd : Opens p (pre ++ [dir]) (.dir fun v => f (.mem (.dir v))))
    (hx : Opens p (pre ++ [idx]) (.idx fun ix => f (.mem (.idx ix))))
    (he : Opens p (pre ++ [ext]) (.ext fun a => f (.mem (.ext a)))) (o : Operand16) :
    decode p (pre ++ encode16 imm dir idx ext o ++ rest) = .instr (f o) rest := by
  cases o with
  | imm v => simpa [encode16] using decode_imm16 rest hi v
  | mem m => exact decode_encodeMem (f := fun m => f (.mem m)) rest hd hx he m

end

end

/-- Decoding gives back what was encoded, whatever follows it (R160, R175): one opcode of one page for each form. -/
theorem decode_encode (p : PcrRegBits) (i : Instr) (rest : List Byte) (h : i.wf = true) :
    decode p (encode i ++ rest) = .instr i rest := by
  cases i with
  | lda o | ldb o | adda o | addb o | adca o | adcb o | suba o | subb o | sbca o | sbcb o | cmpa o | cmpb o
  | anda o | andb o | ora o | orb o | eora o | eorb o | bita o | bitb o =>
    exact decode_encode8 (pre := []) rest (opens_page1 rfl) (opens_page1 rfl) (opens_page1 rfl) (opens_page1 rfl) o
  | ldd o | ldx o | ldu o | addd o | subd o | cmpx o =>
    exact decode_encode16 (pre := []) rest (opens_page1 rfl) (opens_page1 rfl) (opens_page1 rfl) (opens_page1 rfl) o
  | ldy o | lds o | cmpd o | cmpy o =>
    exact decode_encode16 (pre := [0x10]) rest (opens_page2 rfl) (opens_page2 rfl) (opens_page2 rfl) (opens_page2 rfl) o
  | cmpu o | cmps o =>
    exact decode_encode16 (pre := [0x11]) rest (opens_page3 rfl) (opens_page3 rfl) (opens_page3 rfl) (opens_page3 rfl) o
  | sta m | stb m | std m | stx m | stu m | neg m | com m | lsr m | ror m | asr m | asl m | rol m | dec m | inc m
  | tst m | clr m | jmp m | jsr m =>
    exact decode_encodeMem (pre := []) rest (opens_page1 rfl) (opens_page1 rfl) (opens_page1 rfl) m
  | sty m | sts m =>
    exact decode_encodeMem (pre := [0x10]) rest (opens_page2 rfl) (opens_page2 rfl) (opens_page2 rfl) m
  | leax ix | leay ix | leau ix | leas ix => exact decode_idx rest (opens_page1 rfl) ix
  | andcc v | orcc v | cwai v | pshs v | puls v | pshu v | pulu v | bra v | brn v | bhi v | bls v | bhs v | blo v
  | bne v | beq v | bvc v | bvs v | bpl v | bmi v | bge v | blt v | bgt v | ble v | bsr v =>
    exact decode_imm8 rest (opens_page1 rfl) v
  | lbra v | lbsr v => exact decode_imm16 rest (opens_page1 rfl) v
  | lbrn v | lbhi v | lbls v | lbhs v | lblo v | lbne v | lbeq v | lbvc v | lbvs v | lbpl v | lbmi v | lbge v
  | lblt v | lbgt v | lble v => exact decode_imm16 rest (opens_page2 rfl) v
  | tfr r1 r2 | exg r1 r2 => exact decode_pair rest (opens_page1 rfl) h
  | swi2 => exact decode_inh rest (opens_page2 rfl)
  | swi3 => exact decode_inh rest (opens_page3 rfl)
  | _ => exact decode_inh rest (opens_page1 rfl)

end Sys2Proof
end

section
/-! SUPPORT. The step on an encoded instruction, translation, and the values of reset. -/

namespace Sys2Proof.Machine

/-- Settles O9: the bytes stand as they are encoded, so that they are fetched and decoded back to the instruction. -/
theorem stepRunsTheEncodedInstruction : Obligations.StepRunsTheEncodedInstruction := by
  intro s i hc hy hi hread
  have hw : (s.cwaiWait || s.syncWait) = false := by rw [hc, hy, Bool.or_false]
  have hbytes : (List.range (encode i).length).map (s.byteAt s.pc) = encode i :=
    List.ext_getElem (by simp) fun k _ hk => by simp [State.byteAt, hread k hk]
  have hfetch := fetchBytes_plain (s := s) fun k hk => by rw [hread k hk]
  rw [hbytes] at hfetch
  have hdecode : decode s.cfg.pcrRegBits (fetchBytes (encode i).length s).1 = .instr i [] := by
    rw [hfetch]
    simpa using decode_encode s.cfg.pcrRegBits i [] hi
  rw [step_of_decode hw hdecode, hfetch]
  rfl

/-! ### Translation -/

/-- The page is the address divided by the page size (R120). -/
theorem virtualPage_eq (va : Word) : virtualPage va = BitVec.ofNat 3 (va.toNat / 8192) := by
  apply BitVec.eq_of_toNat_eq
  simp [virtualPage, Nat.shiftRight_eq_div_pow]

/-- The cell of the set in force, masked to six bits (R121, R122, R124). -/
theorem physPage_toNat (s : State) (va : Word) :
    (s.physPage va).toNat = (s.activePar (BitVec.ofNat 3 (va.toNat / 8192))).toNat % 64 := by
  simp [State.physPage, virtualPage_eq]

/-- The physical page above the low thirteen bits of the address (R122). -/
theorem translate_toNat (s : State) (va : Word) :
    (s.translate va).toNat = (s.physPage va).toNat * 8192 + va.toNat % 8192 := by
  have hlow : (va.extractLsb' 0 13).toNat = va.toNat % 8192 := by simp
  unfold State.translate
  rw [BitVec.toNat_append, Nat.shiftLeft_eq, ← Nat.mul_comm (2 ^ 13), ← Nat.two_pow_add_eq_or_of_lt (BitVec.isLt _), hlow]

/-- No cell of the fixed set wraps (R75). -/
theorem defaultPar_toNat (i : BitVec 3) : (defaultPar i).toNat = 0x38 + i.toNat := by
  revert i
  decide

/-- Settles O28: with the MMU disabled the page is 0x38 and the address's own, and 0x38 pages are 0x70000 bytes. -/
theorem translation : Obligations.Translation := by
  intro s va page par
  have hphys : (s.physPage va).toNat = par.toNat % 64 := physPage_toNat s va
  refine ⟨by rw [translate_toNat, hphys], hphys, defaultPar_toNat, fun hm => ?_⟩
  have hva := va.isLt
  have hd : par.toNat = 0x38 + va.toNat / 8192 := by
    simp only [par, hm, if_true, defaultPar_toNat, BitVec.toNat_ofNat, page]
    omega
  rw [translate_toNat, hphys, hd]
  omega

/-! ### Reset -/

/-- `reset()` with the reset vector read, which changes nothing (R85, R611, R650, R651). -/
theorem hostReset_eq (s : State) : hostReset s = (drawUnspecified (resetFields s)).setPc (s.vector 0xFFFE) := by
  have h := readWord_vector (va := 0xFFFE) (by decide) (by decide) (drawUnspecified (resetFields s))
  simp only [hostReset, h]
  rfl

/-- Settles O20: by `hostReset_eq`, every field is one that `resetFields` and `drawUnspecified` write or keep. -/
theorem hostReset_values_and_frame : Obligations.HostReset := by
  intro s t
  have ht : t = (drawUnspecified (resetFields s)).setPc (s.vector 0xFFFE) := hostReset_eq s
  rw [ht]
  exact ⟨CC.toByte_ofByte 0x50, rfl, rfl, rfl, rfl, rfl, rfl, rfl, rfl, rfl, rfl, rfl, rfl, rfl, rfl, rfl, rfl⟩

/-- Settles O21: CC of reset is 0x50, and the vector of a ROM image that lists nothing is 0x0000. -/
theorem resetState : Obligations.ResetState := by
  have hcc : State.reset.cc.toByte = 0x50 := by decide
  have hvector : State.reset.vector 0xFFFE = 0 := by decide
  exact ⟨hcc, rfl, hvector.symm, rfl, rfl, rfl, rfl, rfl, rfl, rfl, rfl, rfl⟩

end Sys2Proof.Machine
end

section
/-! SUPPORT. Byte and word access, case by case of the dispatch: RAM, the ROM overlay, the vector window, the I/O window
and the MMU's registers in it (R110-R113, R125-R134). -/

namespace Sys2Proof.Machine

/-! ### The parts of the address space -/

theorem inVectors_iff (va : Word) : inVectors va = true ↔ 0xFFF0 ≤ va.toNat := decide_eq_true_iff

theorem inIo_iff (va : Word) : inIo va = true ↔ 0xFF00 ≤ va.toNat ∧ va.toNat < 0xFFF0 := by
  simp only [inIo, inVectors, Bool.and_eq_true, Bool.not_eq_true', decide_eq_true_eq, decide_eq_false_iff_not, Nat.not_le]
  rfl

theorem isPar_iff (va : Word) : isPar va = true ↔ 0xFFA0 ≤ va.toNat ∧ va.toNat ≤ 0xFFAF := by
  simp [isPar]

theorem overlaid_iff (s : State) (va : Word) :
    s.overlaid va = true ↔ s.allRAM = false ∧ 0x3C ≤ (s.physPage va).toNat := by
  simp [State.overlaid]

/-- The two windows begin at 0xFF00; below it an address is translated. -/
theorem windows_of_low {va : Word} (h : va.toNat < 0xFF00) : inVectors va = false ∧ inIo va = false := by
  simp only [← Bool.not_eq_true, inVectors_iff, inIo_iff]
  omega

theorem ramAt_translate {s : State} {va : Word} (h : va.toNat < 0xFF00) (ho : s.overlaid va = false) :
    s.ramAt va = some (s.translate va).toNat := by
  have hlow : ¬ Config.ioBase ≤ va.toNat := Nat.not_le.mpr h
  simp [State.ramAt, hlow, ho]

theorem ramAt_overlaid {s : State} {va : Word} (ho : s.overlaid va = true) : s.ramAt va = none := by
  simp [State.ramAt, ho]

/-! ### RAM -/

/-- A write to RAM moves no address. -/
theorem ramAt_writeByte_ram {s : State} {va : Word} {pa : Nat} (v : Byte) (h : s.ramAt va = some pa) (wa : Word) :
    (writeByte va v s).ramAt wa = s.ramAt wa := by
  rw [writeByte_ram v h]
  exact ramAt_mmu rfl wa

/-- A read of RAM after a write to RAM (R110, R111, R140). -/
theorem readByte_writeByte_ram {s : State} {va wa : Word} {pa qa : Nat} (v : Byte) (hp : s.ramAt va = some pa)
    (hq : s.ramAt wa = some qa) :
    readByte wa (writeByte va v s) = (if qa = pa then v else s.ram.read qa, writeByte va v s) := by
  rw [readByte_ram ((ramAt_writeByte_ram v hp wa).trans hq), writeByte_ram v hp]
  simp only [Memory.read_write, eq_comm]

/-- Settles O27: `writeByte_ram`, and `readByte_writeByte_ram`. -/
theorem ramReadsLastWrite : Obligations.RamReadsLastWrite := by
  intro s va wa v pa qa hp hq
  refine ⟨?_, readByte_writeByte_ram v hp hq⟩
  rw [writeByte_ram v hp]

/-- The bytes of a word in RAM are two different ones, since their offsets in a page are different (R122). -/
theorem ramAt_succ_ne {s : State} {a : Word} {pa qa : Nat} (hp : s.ramAt a = some pa) (hq : s.ramAt (a + 1) = some qa) :
    pa ≠ qa := by
  have op := ramAt_offset hp
  have oq := ramAt_offset hq
  have ha : (a + 1).toNat = (a.toNat + 1) % 65536 := BitVec.toNat_add a 1
  omega

/-- A word written to RAM is read back, at any alignment (R105). -/
theorem readWord_writeWord_ram {s : State} {a : Word} (v : Word) (h : s.ramRun a 2 = true) :
    readWord a (writeWord a v s) = (v, writeWord a v s) := by
  simp only [State.ramRun, Bool.and_eq_true, Option.isSome_iff_exists] at h
  obtain ⟨⟨pa, hp⟩, ⟨qa, hq⟩, -⟩ := h
  have hp1 := (ramAt_writeByte_ram (hiByte v) hp a).trans hp
  have hq1 := (ramAt_writeByte_ram (hiByte v) hp (a + 1)).trans hq
  have hhi : (writeByte a (hiByte v) s).ram.read pa = hiByte v := by
    rw [writeByte_ram _ hp]
    simp [Memory.read_write]
  have hread : readByte a (writeWord a v s) = (hiByte v, writeWord a v s) := by
    rw [writeWord, readByte_writeByte_ram _ hq1 hp1, if_neg (ramAt_succ_ne hp hq), hhi]
  have hread1 : readByte (a + 1) (writeWord a v s) = (loByte v, writeWord a v s) := by
    rw [writeWord, readByte_writeByte_ram _ hq1 hq1, if_pos rfl]
  simp only [readWord, hread, hread1, word_hiByte_loByte]

theorem hiByte_eq_ofNat (v : Word) : hiByte v = BitVec.ofNat 8 (v.toNat / 256) := by
  apply BitVec.eq_of_toNat_eq
  have hv := v.isLt
  rw [toNat_hiByte, BitVec.toNat_ofNat]
  omega

/-- Settles O33: the two bytes in their order, and `readWord_writeWord_ram`. -/
theorem wordAccess : Obligations.WordAccess := by
  intro s a v hi lo s1 s2
  refine ⟨fun h1 h2 => ?_, ?_, readWord_writeWord_ram v⟩
  · simp only [readWord, h1, h2, toNat_word, and_self]
  · rw [← hiByte_eq_ofNat]
    rfl

/-! ### The ROM overlay and the vector window -/

theorem readByte_overlaid {s : State} {va : Word} (h : va.toNat < 0xFF00) (ho : s.overlaid va = true) :
    readByte va s = romRead va s := by
  obtain ⟨hv, hio⟩ := windows_of_low h
  simp [readByte, hv, hio, ho]

theorem cartRead_image {s : State} {o : Nat} (h : o < s.cartSize) : cartRead o s = (s.cartRom.read o, s) := by
  rw [cartRead, if_pos h]

/-- The overlay's modes 0 and 1: 16 KiB of system ROM below 16 KiB of cartridge (R125). -/
theorem romRead_mixed {s : State} (va : Word) (h : s.romMode = 0 ∨ s.romMode = 1) :
    romRead va s =
      if s.romOffset va < 0x4000 then (s.sysRom.read (s.romOffset va), s) else cartRead (s.romOffset va - 0x4000) s := by
  rcases h with h | h <;> simp [romRead, h]

theorem romRead_system {s : State} (va : Word) (h : s.romMode = 2) :
    romRead va s = (s.sysRom.read (s.romOffset va), s) := by
  simp [romRead, h]

theorem romRead_cartridge {s : State} (va : Word) (h : s.romMode = 3) : romRead va s = cartRead (s.romOffset va) s := by
  simp [romRead, h]

theorem romOffset_eq (s : State) (va : Word) :
    s.romOffset va = ((s.physPage va).toNat - 0x3C) * 8192 + va.toNat % 8192 := by
  simp [State.romOffset]

/-- The vector window is the top 16 bytes of system ROM (R112). -/
theorem readByte_vectors {va : Word} (h : 0xFFF0 ≤ va.toNat) (s : State) :
    readByte va s = (s.sysRom.read (va.toNat - 0x8000), s) := by
  have hoff : 0x7FF0 + (va.toNat - Config.vectorBase) = va.toNat - 0x8000 := by
    unfold Config.vectorBase
    omega
  rw [readByte_inVectors ((inVectors_iff va).mpr h), hoff]

theorem writeByte_vectors {va : Word} (h : 0xFFF0 ≤ va.toNat) (v : Byte) (s : State) : writeByte va v s = s := by
  have hv := (inVectors_iff va).mpr h
  exact writeByte_discarded v (by simp [inIo, hv]) (ramAt_inVectors hv)

/-- Settles O30: the overlay by its mode, and the vector window. -/
theorem romReads : Obligations.RomReads := by
  intro s va off
  have hoff : s.romOffset va = off := romOffset_eq s va
  refine ⟨fun hlow hram hpage => ?_, fun h => ⟨readByte_vectors h s, fun v => writeByte_vectors h v s⟩⟩
  rw [readByte_overlaid hlow ((overlaid_iff s va).mpr ⟨hram, hpage⟩)]
  refine ⟨fun hm ho => ?_, fun hm ho hc => ?_, fun hm => ?_, fun hm hc => ?_⟩
  · rw [romRead_mixed va hm, hoff, if_pos ho]
  · rw [romRead_mixed va hm, hoff, if_neg (Nat.not_lt.mpr ho), cartRead_image hc]
  · rw [romRead_system va hm, hoff]
  · rw [romRead_cartridge va hm, hoff, cartRead_image hc]

/-! ### Device accesses -/

section
variable {s : State} (va : Word) (v : Byte)

theorem deviceRead_unanswered (h : s.deviceAnswers = []) :
    deviceRead va s =
      (Config.freeByte s.draws, { s with events := s.events ++ [.read va], draws := s.draws + 1 }) := by
  cases s
  cases h
  rfl

theorem deviceRead_answered {d : DeviceAnswer} {rest : List DeviceAnswer} (h : s.deviceAnswers = d :: rest) :
    deviceRead va s = (d.value, { s with
      events := s.events ++ [.read va], deviceAnswers := rest, irqLatch := s.irqLatch || d.irq
      firqLatch := s.firqLatch || d.firq, nmiLatch := s.nmiLatch || d.nmi }) := by
  cases s
  cases h
  rfl

theorem deviceWrite_unanswered (h : s.deviceAnswers = []) :
    deviceWrite va v s = { s with events := s.events ++ [.write va v] } := by
  cases s
  cases h
  rfl

theorem deviceWrite_answered {d : DeviceAnswer} {rest : List DeviceAnswer} (h : s.deviceAnswers = d :: rest) :
    deviceWrite va v s = { s with
      events := s.events ++ [.write va v], deviceAnswers := rest, irqLatch := s.irqLatch || d.irq
      firqLatch := s.firqLatch || d.firq, nmiLatch := s.nmiLatch || d.nmi } := by
  cases s
  cases h
  rfl

end

theorem readByte_device {va : Word} (hio : inIo va = true) (hp : isPar va = false) (s : State) :
    readByte va s = deviceRead va s := by
  have hv : inVectors va = false := by
    simp only [inIo, Bool.and_eq_true, Bool.not_eq_true'] at hio
    exact hio.2
  simp [readByte, hv, hio, hp]

theorem readByte_par {va : Word} (hp : isPar va = true) (s : State) : readByte va s = parRead va s := by
  have hrange := (isPar_iff va).mp hp
  have hio : inIo va = true := (inIo_iff va).mpr (by omega)
  have hv : inVectors va = false := by
    rw [← Bool.not_eq_true, inVectors_iff]
    omega
  simp [readByte, hv, hio, hp]

theorem deviceRead_events (va : Word) (s : State) : (deviceRead va s).2.events = s.events ++ [.read va] := by
  cases h : s.deviceAnswers with
  | nil => rw [deviceRead_unanswered va h]
  | cons d rest => rw [deviceRead_answered va h]

/-- Two bits of one byte above six of another. -/
theorem append_eq_masked (a b : Byte) : a.extractLsb' 6 2 ++ b.extractLsb' 0 6 = a &&& 0xC0 ||| b &&& 0x3F := by
  apply BitVec.eq_of_getLsbD_eq
  intro i hi
  simp only [BitVec.getLsbD_append, BitVec.getLsbD_extractLsb', BitVec.getLsbD_or, BitVec.getLsbD_and]
  interval_cases i <;> simp

/-- Bit 3 tells the two PAR sets' registers apart (R110, R132). -/
theorem par_bit3 {va : Word} (h : 0xFFA0 ≤ va.toNat ∧ va.toNat ≤ 0xFFAF) : va.getLsbD 3 = decide (0xFFA8 ≤ va.toNat) := by
  rw [BitVec.getLsbD, Nat.testBit_eq_decide_div_mod_eq, decide_eq_decide]
  omega

/-- A PAR read answers bits 5..0 of its cell below two free bits, and records nothing (R134). -/
theorem readByte_par_masked {va : Word} (h : 0xFFA0 ≤ va.toNat ∧ va.toNat ≤ 0xFFAF) (s : State) :
    readByte va s = (Config.freeByte s.draws &&& 0xC0 ||| (if va.toNat < 0xFFA8 then s.parExec.get (BitVec.ofNat 3 va.toNat)
      else s.parTask.get (BitVec.ofNat 3 va.toNat)) &&& 0x3F, { s with draws := s.draws + 1 }) := by
  have hcell : va.extractLsb' 0 3 = BitVec.ofNat 3 va.toNat := rfl
  rw [readByte_par ((isPar_iff va).mpr h)]
  simp only [parRead, drawByte, par_bit3 h, hcell, append_eq_masked, decide_eq_true_eq]
  by_cases hlow : va.toNat < 0xFFA8
  · rw [if_pos hlow, if_neg (Nat.not_le.mpr hlow)]
  · rw [if_neg hlow, if_pos (Nat.not_lt.mp hlow)]

theorem writeByte_io_events {va : Word} (hio : inIo va = true) (v : Byte) (s : State) :
    (writeByte va v s).events = s.events ++ [.write va v] := by
  obtain ⟨-, hevents, -⟩ := deviceWrite_evolves va v s
  rw [writeByte_io v s hio, mmuControlWrite_frame]
  exact hevents

/-- Settles O32: device reads and writes by whether an answer is listed, and the PAR reads. -/
theorem deviceAccesses : Obligations.DeviceAccesses := by
  intro s va v hbase htop
  have hio : inIo va = true := (inIo_iff va).mpr ⟨hbase, htop⟩
  refine ⟨fun hnp => ?_, fun hp => ⟨_, readByte_par_masked hp s⟩, writeByte_io_events hio v s,
    fun _ _ h => deviceWrite_answered va v h⟩
  have hpar : isPar va = false := by rwa [← Bool.not_eq_true, isPar_iff]
  rw [readByte_device hio hpar]
  exact ⟨deviceRead_events va s, fun _ _ h => deviceRead_answered va h⟩

/-! ### All-RAM mode -/

section
variable (va : Word) (v : Byte) (mode : Bool) (s : State)

theorem deviceRead_allRAM : deviceRead va { s with allRAM := mode } =
    ((deviceRead va s).1, { (deviceRead va s).2 with allRAM := mode }) := by
  obtain ⟨_ | ⟨d, rest⟩, h⟩ : ∃ answers, s.deviceAnswers = answers := ⟨_, rfl⟩
  · rw [deviceRead_unanswered va h, deviceRead_unanswered (s := { s with allRAM := mode }) va h]
  · rw [deviceRead_answered va h, deviceRead_answered (s := { s with allRAM := mode }) va h]

theorem deviceWrite_allRAM : deviceWrite va v { s with allRAM := mode } =
    { deviceWrite va v s with allRAM := mode } := by
  obtain ⟨_ | ⟨d, rest⟩, h⟩ : ∃ answers, s.deviceAnswers = answers := ⟨_, rfl⟩
  · rw [deviceWrite_unanswered va v h, deviceWrite_unanswered (s := { s with allRAM := mode }) va v h]
  · rw [deviceWrite_answered va v h, deviceWrite_answered (s := { s with allRAM := mode }) va v h]

/-- All-RAM mode itself apart, a write to an MMU register does the same in both modes (R130-R133). -/
theorem mmuControlWrite_allRAM : ∃ after : Bool, mmuControlWrite va v { s with allRAM := mode } =
    { mmuControlWrite va v s with allRAM := after } := by
  refine ⟨(mmuControlWrite va v { s with allRAM := mode }).allRAM, ?_⟩
  unfold mmuControlWrite
  repeat' split
  all_goals rfl

variable {va} (h : 0xFF00 ≤ va.toNat)
include h

/-- The two windows do not depend on all-RAM mode (R112, R113, R127). -/
theorem readByte_window_allRAM : readByte va { s with allRAM := mode } =
    ((readByte va s).1, { (readByte va s).2 with allRAM := mode }) := by
  by_cases htop : 0xFFF0 ≤ va.toNat
  · rw [readByte_vectors htop, readByte_vectors htop]
  · have hio : inIo va = true := (inIo_iff va).mpr ⟨h, Nat.not_le.mp htop⟩
    cases hp : isPar va with
    | false => rw [readByte_device hio hp, readByte_device hio hp, deviceRead_allRAM]
    | true =>
      rw [readByte_par hp, readByte_par hp]
      rfl

theorem writeByte_window_allRAM : ∃ after : Bool,
    writeByte va v { s with allRAM := mode } = { writeByte va v s with allRAM := after } := by
  by_cases htop : 0xFFF0 ≤ va.toNat
  · exact ⟨mode, by rw [writeByte_vectors htop, writeByte_vectors htop]⟩
  · have hio : inIo va = true := (inIo_iff va).mpr ⟨h, Nat.not_le.mp htop⟩
    rw [writeByte_io v _ hio, writeByte_io v _ hio, deviceWrite_allRAM]
    exact mmuControlWrite_allRAM va v mode _

end

/-- Settles O29: below the windows a write is discarded or goes to RAM; the windows do not depend on all-RAM mode. -/
theorem romWritesAndAllRam : Obligations.RomWritesAndAllRam := by
  intro s va v
  have hkeeps := Evolves.writeByte va v s
  refine ⟨fun hlow hram hpage => ?_, hkeeps.sysRom, hkeeps.cartRom, fun hlow hram => ?_,
    fun hhigh mode => ⟨readByte_window_allRAM mode s hhigh, writeByte_window_allRAM v mode s hhigh⟩⟩
  · obtain ⟨-, hio⟩ := windows_of_low hlow
    exact writeByte_discarded v hio (ramAt_overlaid ((overlaid_iff s va).mpr ⟨hram, hpage⟩))
  · have hr : s.ramAt va = some (s.translate va).toNat := ramAt_translate hlow (by simp [State.overlaid, hram])
    exact ⟨readByte_ram hr, writeByte_ram v hr⟩

/-! ### The MMU's registers -/

/-- A PAR cell written: it holds the whole byte, and the other cells are as before (R124, R132). -/
theorem ParSet.get_set (p : ParSet) (i j : BitVec 3) (v : Byte) : (p.set i v).get j = if j = i then v else p.get j := by
  obtain ⟨n, hn⟩ := i
  obtain ⟨m, hm⟩ := j
  interval_cases n <;> interval_cases m <;> rfl

/-- The registers of the PAR cells stand in the I/O window, the executive set's below the task set's (R132). -/
theorem parRegister (i : BitVec 3) :
    let va : Word := 0xFFA0 + i.setWidth 16
    (inIo va = true ∧ isPar va = true ∧ va.getLsbD 3 = false ∧ va.extractLsb' 0 3 = i) ∧
    (inIo (va + 8) = true ∧ isPar (va + 8) = true ∧ (va + 8).getLsbD 3 = true ∧ (va + 8).extractLsb' 0 3 = i) := by
  revert i
  decide

theorem writeByte_parRegister {va : Word} (v : Byte) (s : State) (hio : inIo va = true) (hp : isPar va = true) :
    writeByte va v s =
      if va.getLsbD 3 then
        { deviceWrite va v s with parTask := (deviceWrite va v s).parTask.set (va.extractLsb' 0 3) v }
      else { deviceWrite va v s with parExec := (deviceWrite va v s).parExec.set (va.extractLsb' 0 3) v } := by
  have h90 : va ≠ 0xFF90 := by rintro rfl; cases hp
  have h91 : va ≠ 0xFF91 := by rintro rfl; cases hp
  rw [writeByte_io v s hio, mmuControlWrite, if_neg h90, if_neg h91, if_pos hp]

theorem writeByte_parExec (i : BitVec 3) (v : Byte) (s : State) :
    writeByte (0xFFA0 + i.setWidth 16) v s =
      { deviceWrite (0xFFA0 + i.setWidth 16) v s with parExec := s.parExec.set i v } := by
  obtain ⟨⟨hio, hp, hbit, hi⟩, -⟩ := parRegister i
  rw [writeByte_parRegister v s hio hp, hbit, hi, deviceWrite_frame]
  rfl

theorem writeByte_parTask (i : BitVec 3) (v : Byte) (s : State) :
    writeByte (0xFFA0 + i.setWidth 16 + 8) v s =
      { deviceWrite (0xFFA0 + i.setWidth 16 + 8) v s with parTask := s.parTask.set i v } := by
  obtain ⟨-, hio, hp, hbit, hi⟩ := parRegister i
  rw [writeByte_parRegister v s hio hp, hbit, hi, deviceWrite_frame]
  rfl

/-- Settles O31: each register's write, and `mmuControlWrite_other` in the rest of the window. -/
theorem mmuRegisterWrites : Obligations.MmuRegisterWrites := by
  intro s v
  refine ⟨writeByte_io v s rfl, writeByte_io v s rfl, writeByte_io v s rfl, writeByte_io v s rfl, fun i j => ?_,
    fun va hbase htop hother => ?_⟩
  · intro va
    have hexec : writeByte va v s = { deviceWrite va v s with parExec := s.parExec.set i v } := writeByte_parExec i v s
    have htask : writeByte (va + 8) v s = { deviceWrite (va + 8) v s with parTask := s.parTask.set i v } :=
      writeByte_parTask i v s
    rw [hexec, htask]
    exact ⟨ParSet.get_set _ i j v, ParSet.get_set _ i j v, rfl, rfl⟩
  · rw [writeByte_io v s ((inIo_iff va).mpr ⟨hbase, htop⟩), mmuControlWrite_other v _ hother]

end Sys2Proof.Machine
end

section
/-! SUPPORT. What an instruction that stores leaves unchanged: its operand is resolved, and a run of one or two bytes from
the effective address on is written (R111, R250, R350). -/

namespace Sys2Proof.Machine

/-- `r` is `s` with an operand resolved and read; the flags and the tick sum are left open. -/
def Resolved (δ : IndexReg → Word) (s r : State) : Prop :=
  r = { resolvedFrame δ s r with cc := r.cc, ticks := r.ticks }

/-- `t` is `s` with an operand resolved and read and at most the `n` bytes from `ea` on written; the flags and the tick
sum are left open. -/
structure Stored (δ : IndexReg → Word) (ea : Word) (n : Nat) (s t : State) : Prop where
  frame : t = { storeFrame (resolvedFrame δ s t) t with cc := t.cc, ticks := t.ticks }
  mmu : avoidsMmu ea n = true → t.mmu = s.mmu
  ram : ∀ pa, s.reaches ea pa n = false → t.ram.read pa = s.ram.read pa

section
variable {δ : IndexReg → Word} {ea : Word} {n : Nat} {s r t : State}

theorem Resolved.mmu (h : Resolved δ s r) : r.mmu = s.mmu := (congrArg State.mmu h :)

theorem Resolved.ram (h : Resolved δ s r) : r.ram = s.ram := (congrArg State.ram h :)

theorem resolved_afterAddress (m : MemOperand) (s : State) : Resolved (indexDelta m) s (afterAddress m s) := rfl

theorem resolved_afterOperand8 (m : MemOperand) (s : State) : Resolved (indexDelta m) s (afterOperand8 (.mem m) s) := rfl

theorem Resolved.setCC (h : Resolved δ s r) (cc : CC) : Resolved δ s (r.setCC cc) := by
  rw [Resolved] at h
  rw [h]
  rfl

theorem Resolved.drawFlag (h : Resolved δ s r) (old : Bool) : Resolved δ s (drawFlag old r).2 := by
  rw [Resolved] at h
  rw [drawFlag_frame, h]
  rfl

/-- Nothing written, as TST has it. -/
theorem Resolved.stored (h : Resolved δ s r) (ea : Word) (n : Nat) : Stored δ ea n s r where
  frame := by
    rw [Resolved] at h
    rw [h]
    rfl
  mmu _ := h.mmu
  ram pa _ := by rw [h.ram]

/-- A run of one or two bytes stored (R104, R111). -/
theorem Resolved.storesRun (h : Resolved δ s r) {bytes : List Byte} (hn : bytes.length ≤ 2)
    (hframe : t = storeFrame (busFrame r t) t) (ht : storesRun ea bytes r t) : Stored δ ea bytes.length s t where
  frame := by
    rw [Resolved] at h
    rw [hframe, h]
    rfl
  mmu ha := (ht.2.1 ha).trans h.mmu
  ram pa hpa := by
    rw [ht.1 (.inl hn) pa ((reaches_mmu h.mmu ea pa _).trans hpa), h.ram]

/-- One byte stored. -/
theorem Resolved.writeByte (h : Resolved δ s r) (ea : Word) (v : Byte) : Stored δ ea 1 s (writeByte ea v r) := by
  have hrun := runStored_byte v (runStored_nil (ea + 1) r) (by simp)
  rw [BitVec.add_sub_cancel] at hrun
  exact h.storesRun (bytes := [v]) (by simp) (writeByte_frame ea v r) (storesRun_of_runStored hrun)

/-- One word stored, of which either byte may be an MMU register. -/
theorem Resolved.writeWord (h : Resolved δ s r) (ea v : Word) : Stored δ ea 2 s (writeWord ea v r) := by
  have hrun := runStored_word v (runStored_nil (ea + 2) r) (by simp)
  rw [BitVec.add_sub_cancel] at hrun
  exact h.storesRun (bytes := [hiByte v, loByte v]) (by simp) (writeWord_frame ea v r) (storesRun_of_runStored hrun)

theorem Stored.setCC (h : Stored δ ea n s t) (cc : CC) : Stored δ ea n s (t.setCC cc) :=
  ⟨congrArg (State.setCC · cc) h.frame, h.mmu, h.ram⟩

theorem Stored.tick (h : Stored δ ea n s t) (k : Nat) : Stored δ ea n s (t.tick k) :=
  ⟨congrArg (State.tick · k) h.frame, h.mmu, h.ram⟩

theorem Stored.frame_cc (h : Stored δ ea n s t) {cc : CC} (hcc : t.cc = cc) :
    t = { storeFrame (resolvedFrame δ s t) t with cc := cc, ticks := t.ticks } := by
  subst hcc
  exact h.frame

theorem Stored.mmu_byte (h : Stored δ ea 1 s t) (ha : isMmuRegister ea = false) : t.mmu = s.mmu :=
  h.mmu (by simp [avoidsMmu, ha])

theorem Stored.mmu_word (h : Stored δ ea 2 s t) (ha : isMmuRegister ea = false) (ha1 : isMmuRegister (ea + 1) = false) :
    t.mmu = s.mmu :=
  h.mmu (by simp only [avoidsMmu, ha, ha1, Bool.not_false, Bool.and_self])

theorem Stored.ram_byte (h : Stored δ ea 1 s t) (pa : Nat) (ha : s.ramAt ea ≠ some pa) :
    t.ram.read pa = s.ram.read pa :=
  h.ram pa (by simp [State.reaches, ha])

theorem Stored.ram_word (h : Stored δ ea 2 s t) (pa : Nat) (ha : s.ramAt ea ≠ some pa) (ha1 : s.ramAt (ea + 1) ≠ some pa) :
    t.ram.read pa = s.ram.read pa :=
  h.ram pa (by simp only [State.reaches, beq_eq_false_iff_ne.mpr ha, beq_eq_false_iff_ne.mpr ha1, Bool.or_self])

end

/-! ### Stores of a register -/

@[simp] theorem writeByte_cc (va : Word) (v : Byte) (s : State) : (writeByte va v s).cc = s.cc :=
  (congrArg State.cc (writeByte_frame va v s) :)

@[simp] theorem writeWord_cc (va v : Word) (s : State) : (writeWord va v s).cc = s.cc :=
  (congrArg State.cc (writeWord_frame va v s) :)

/-- What a store makes of the flags: N and Z of what it stores, V cleared (R250). -/
def StoreFlags (s t : State) : Prop := t.cc = { s.cc with n := t.cc.n, z := t.cc.z, v := false }

section
variable (m : MemOperand) (s : State)

theorem effectiveAddress_state : (effectiveAddress m s).2 = afterAddress m s := effectiveAddress_frame m s

theorem store8_stored (get : State → Byte) (base : Nat) :
    Stored (indexDelta m) (effectiveAddress m s).1 1 s (store8 get base m s) ∧ StoreFlags s (store8 get base m s) := by
  simp only [store8, effectiveAddress_state, writeByte_cc]
  exact ⟨(((resolved_afterAddress m s).writeByte _ _).setCC _).tick _, rfl⟩

theorem store16_stored (get : State → Word) (base : Nat) :
    Stored (indexDelta m) (effectiveAddress m s).1 2 s (store16 get base m s) ∧ StoreFlags s (store16 get base m s) := by
  simp only [store16, effectiveAddress_state, writeWord_cc]
  exact ⟨(((resolved_afterAddress m s).writeWord _ _).setCC _).tick _, rfl⟩

end

theorem exec_store8 {m : MemOperand} {s t : State} (h : exec (.sta m) s = .next t ∨ exec (.stb m) s = .next t) :
    ∃ get base, t = store8 get base m s := by
  rcases h with h | h <;> cases h <;> exact ⟨_, _, rfl⟩

theorem exec_store16 {m : MemOperand} {s t : State} (h : exec (.std m) s = .next t ∨ exec (.stx m) s = .next t ∨
    exec (.sty m) s = .next t ∨ exec (.stu m) s = .next t ∨ exec (.sts m) s = .next t) :
    ∃ get base, t = store16 get base m s := by
  rcases h with h | h | h | h | h <;> cases h <;> exact ⟨_, _, rfl⟩

/-! ### Unary operations on memory -/

section
variable (law : Byte → CC → Byte × CC) (m : MemOperand) (s : State)

/-- The byte a unary operation reads (R350). -/
def unaryOperand : Byte := (operand8 (.mem m) s).1

/-- The flags of a state after H was drawn on a byte read (R351, R367, R371). -/
def drawnFlags : CC := { s.cc with h := (drawFlag s.cc.h (afterOperand8 (.mem m) s)).1 }

theorem unaryMem_eq : unaryMem law m s =
    (writeByte (effectiveAddress m s).1 (law (unaryOperand m s) s.cc).1
      ((afterOperand8 (.mem m) s).setCC (law (unaryOperand m s) s.cc).2)).tick (memTicks 6 m) := by
  have hread : (readByte (effectiveAddress m s).1 (effectiveAddress m s).2).2 = afterOperand8 (.mem m) s :=
    operand8_frame (.mem m) s
  simp only [unaryMem, hread]
  rfl

theorem unaryMemH_eq : unaryMemH law m s =
    (writeByte (effectiveAddress m s).1 (law (unaryOperand m s) (drawnFlags m s)).1
      ((drawFlag s.cc.h (afterOperand8 (.mem m) s)).2.setCC (law (unaryOperand m s) (drawnFlags m s)).2)).tick
        (memTicks 6 m) := by
  have hread : drawH (readByte (effectiveAddress m s).1 (effectiveAddress m s).2).2 = _ := drawH_operand8 (.mem m) s
  simp only [unaryMemH, hread]
  rfl

theorem testMem_eq : testMem m s =
    ((afterOperand8 (.mem m) s).setCC (Flags.tst (unaryOperand m s) s.cc)).tick (memTicks 6 m) := by
  have hread : (readByte (effectiveAddress m s).1 (effectiveAddress m s).2).2 = afterOperand8 (.mem m) s :=
    operand8_frame (.mem m) s
  simp only [testMem, hread]
  rfl

theorem clearMem_eq : clearMem m s =
    (writeByte (effectiveAddress m s).1 0 ((afterAddress m s).setCC (Flags.clr s.cc))).tick (memTicks 6 m) := by
  simp only [clearMem, effectiveAddress_state]
  rfl

/-- The flags each shape of a unary operation leaves. -/
theorem unaryMem_cc : (unaryMem law m s).cc = (law (unaryOperand m s) s.cc).2 := by
  rw [unaryMem_eq]
  simp

theorem unaryMemH_cc : (unaryMemH law m s).cc = (law (unaryOperand m s) (drawnFlags m s)).2 := by
  rw [unaryMemH_eq]
  simp

theorem testMem_cc : (testMem m s).cc = Flags.tst (unaryOperand m s) s.cc := by
  rw [testMem_eq]
  simp

theorem clearMem_cc : (clearMem m s).cc = Flags.clr s.cc := by
  rw [clearMem_eq]
  simp

/-- A law of a unary operation on memory writes neither E nor a mask (R350). -/
def KeepsMasks (law : Byte → CC → Byte × CC) : Prop :=
  ∀ a cc, (law a cc).2 = { (law a cc).2 with e := cc.e, f := cc.f, i := cc.i }

/-- The frame every unary operation on memory has. -/
def UnaryFrame (m : MemOperand) (s t : State) : Prop :=
  Stored (indexDelta m) (effectiveAddress m s).1 1 s t ∧ t.cc = { t.cc with e := s.cc.e, f := s.cc.f, i := s.cc.i }

variable {law} in
theorem unaryMem_frame (hlaw : KeepsMasks law) : UnaryFrame m s (unaryMem law m s) := by
  refine ⟨?_, ?_⟩
  · rw [unaryMem_eq]
    exact (((resolved_afterOperand8 m s).setCC _).writeByte _ _).tick _
  · rw [unaryMem_cc]
    exact hlaw _ s.cc

variable {law} in
theorem unaryMemH_frame (hlaw : KeepsMasks law) : UnaryFrame m s (unaryMemH law m s) := by
  refine ⟨?_, ?_⟩
  · rw [unaryMemH_eq]
    exact ((((resolved_afterOperand8 m s).drawFlag _).setCC _).writeByte _ _).tick _
  · rw [unaryMemH_cc]
    exact hlaw _ (drawnFlags m s)

theorem testMem_frame : UnaryFrame m s (testMem m s) := by
  refine ⟨?_, ?_⟩
  · rw [testMem_eq]
    exact (((resolved_afterOperand8 m s).setCC _).stored _ 1).tick _
  · rw [testMem_cc]
    rfl

theorem clearMem_frame : UnaryFrame m s (clearMem m s) := by
  refine ⟨?_, ?_⟩
  · rw [clearMem_eq]
    exact (((resolved_afterAddress m s).setCC _).writeByte _ _).tick _
  · rw [clearMem_cc]
    rfl

/-- TST writes nothing (R387, R390). -/
theorem testMem_memory : (testMem m s).ram = s.ram ∧ (testMem m s).mmu = s.mmu := by
  rw [testMem_eq]
  exact ⟨rfl, rfl⟩

end

section
variable {m : MemOperand} {i : Instr} {s t : State} (h : exec i s = .next t)
include h

section
variable (hi : i ∈ ([.neg m, .com m, .lsr m, .ror m, .asr m, .asl m, .rol m, .dec m, .inc m, .clr m, .tst m] : List Instr))
include hi

/-- In the order of the list: NEG, ASR and ASL draw H, CLR reads nothing, TST writes nothing. -/
theorem exec_unary_frame : UnaryFrame m s t := by
  simp only [List.mem_cons, List.not_mem_nil, or_false] at hi
  rcases hi with rfl | rfl | rfl | rfl | rfl | rfl | rfl | rfl | rfl | rfl | rfl <;> cases h
  · exact unaryMemH_frame m s fun _ _ => rfl
  · exact unaryMem_frame m s fun _ _ => rfl
  · exact unaryMem_frame m s fun _ _ => rfl
  · exact unaryMem_frame m s fun _ _ => rfl
  · exact unaryMemH_frame m s fun _ _ => rfl
  · exact unaryMemH_frame m s fun _ _ => rfl
  · exact unaryMem_frame m s fun _ _ => rfl
  · exact unaryMem_frame m s fun _ _ => rfl
  · exact unaryMem_frame m s fun _ _ => rfl
  · exact clearMem_frame m s
  · exact testMem_frame m s

/-- No law of a unary operation writes H; NEG, ASR and ASL have it drawn (R351, R367, R371). -/
theorem exec_unary_h (hdraw : i ∉ ([.neg m, .asr m, .asl m] : List Instr)) : t.cc.h = s.cc.h := by
  simp only [List.mem_cons, List.not_mem_nil, or_false, not_or] at hi hdraw
  obtain ⟨hneg, hasr, hasl⟩ := hdraw
  rcases hi with rfl | rfl | rfl | rfl | rfl | rfl | rfl | rfl | rfl | rfl | rfl <;> cases h
  · exact absurd rfl hneg
  · exact (congrArg CC.h (unaryMem_cc Flags.com m s) :)
  · exact (congrArg CC.h (unaryMem_cc Flags.lsr m s) :)
  · exact (congrArg CC.h (unaryMem_cc Flags.ror m s) :)
  · exact absurd rfl hasr
  · exact absurd rfl hasl
  · exact (congrArg CC.h (unaryMem_cc Flags.rol m s) :)
  · exact (congrArg CC.h (unaryMem_cc Flags.dec m s) :)
  · exact (congrArg CC.h (unaryMem_cc Flags.inc m s) :)
  · exact (congrArg CC.h (clearMem_cc m s) :)
  · exact (congrArg CC.h (testMem_cc m s) :)

end

/-- LSR, ROR and ASR leave V (R359, R363, R367). -/
theorem exec_unary_v (hi : i ∈ ([.lsr m, .ror m, .asr m] : List Instr)) : t.cc.v = s.cc.v := by
  simp only [List.mem_cons, List.not_mem_nil, or_false] at hi
  rcases hi with rfl | rfl | rfl <;> cases h
  · exact (congrArg CC.v (unaryMem_cc Flags.lsr m s) :)
  · exact (congrArg CC.v (unaryMem_cc Flags.ror m s) :)
  · exact (congrArg CC.v (unaryMemH_cc Flags.asr m s) :)

/-- DEC, INC and TST leave C (R379, R383, R387). -/
theorem exec_unary_c (hi : i ∈ ([.dec m, .inc m, .tst m] : List Instr)) : t.cc.c = s.cc.c := by
  simp only [List.mem_cons, List.not_mem_nil, or_false] at hi
  rcases hi with rfl | rfl | rfl <;> cases h
  · exact (congrArg CC.c (unaryMem_cc Flags.dec m s) :)
  · exact (congrArg CC.c (unaryMem_cc Flags.inc m s) :)
  · exact (congrArg CC.c (testMem_cc m s) :)

theorem exec_tst_memory (hi : i = .tst m) : t.ram = s.ram ∧ t.mmu = s.mmu := by
  subst hi
  cases h
  exact testMem_memory m s

end

/-- Settles O48: `store8_stored`, `store16_stored` and `exec_unary_frame` are the frames, each clause a field of `Stored`. -/
theorem storingFrames : Obligations.StoringFrames := by
  intro s t m ea
  refine ⟨fun h => ?store8, fun h => ?store16, fun i hi h => ?unary⟩
  case store8 =>
    obtain ⟨get, base, rfl⟩ := exec_store8 h
    obtain ⟨hs, hcc⟩ := store8_stored m s get base
    exact ⟨hs.frame_cc hcc, hs.mmu_byte, hs.ram_byte⟩
  case store16 =>
    obtain ⟨get, base, rfl⟩ := exec_store16 h
    obtain ⟨hs, hcc⟩ := store16_stored m s get base
    exact ⟨hs.frame_cc hcc, hs.mmu_word, hs.ram_word⟩
  case unary =>
    obtain ⟨hs, hcc⟩ := exec_unary_frame h hi
    exact ⟨hs.frame_cc hcc, exec_unary_h h hi, exec_unary_v h, exec_unary_c h, hs.mmu_byte, hs.ram_byte,
      exec_tst_memory h⟩

end Sys2Proof.Machine
end

section
/-! SUPPORT. The decoder read backwards: the bytes it takes are the encoding of what it answers, and which bytes it
refuses. -/

namespace Sys2Proof

open Sys2Proof.Machine

/-- Settles O1: `decode_encode`. -/
theorem decodeEncodeRoundTrip : Obligations.DecodeEncodeRoundTrip := decode_encode

/-- Settles O4: `decode_ne_more`. -/
theorem fiveBytesAreEnough : Obligations.FiveBytesAreEnough := fun _ _ => decode_ne_more

/-- Settles O3: each word is decoded by evaluation. -/
theorem writtenWordsDecode : Obligations.WrittenWordsDecode := ⟨rfl, rfl, rfl, rfl, rfl, rfl, rfl, rfl⟩

/-! ### The three pages (R161, R162) -/

section
variable {p : PcrRegBits} {op : Byte} {rest : List Byte}

theorem decode_page1 (h10 : op ≠ 0x10) (h11 : op ≠ 0x11) :
    decode p (op :: rest) = decodeFormat p (word 0 op) (page1 op.toNat) rest := by
  simp only [decode, h10, h11, if_false]

theorem decode_page2 : decode p (0x10 :: op :: rest) = decodeFormat p (word 0x10 op) (page2 op.toNat) rest := rfl

theorem decode_page3 : decode p (0x11 :: op :: rest) = decodeFormat p (word 0x11 op) (page3 op.toNat) rest := rfl

end

/-! ### The EXG and TFR postbyte (R172, R508, R509) -/

/-- A postbyte names a pair iff its two codes name the registers of it, and the pair is defined (R509). -/
theorem decodePair_eq_some {pb : Byte} {r1 r2 : Reg} : decodePair pb = some (r1, r2) ↔
    Reg.ofCode (pb.extractLsb' 4 4) = some r1 ∧ Reg.ofCode (pb.extractLsb' 0 4) = some r2 ∧ pairDefined r1 r2 = true := by
  unfold decodePair
  cases Reg.ofCode (pb.extractLsb' 4 4) with
  | none => simp
  | some q1 =>
    cases Reg.ofCode (pb.extractLsb' 0 4) with
    | none => simp
    | some q2 =>
      simp only [Option.ite_none_right_eq_some, Option.some.injEq, Prod.mk.injEq]
      exact ⟨fun ⟨hp, h1, h2⟩ => ⟨h1, h2, h1 ▸ h2 ▸ hp⟩, fun ⟨h1, h2, hp⟩ => ⟨h1 ▸ h2 ▸ hp, h1, h2⟩⟩

/-- The postbyte a pair was read from is the pair's own (R172). -/
theorem pairByte_of_decodePair {pb : Byte} {r1 r2 : Reg} (h : decodePair pb = some (r1, r2)) :
    pairByte r1 r2 = pb ∧ pairDefined r1 r2 = true := by
  obtain ⟨h1, h2, hp⟩ := decodePair_eq_some.mp h
  refine ⟨?_, hp⟩
  rw [pairByte, Reg.code_of_ofCode h1, Reg.code_of_ofCode h2, 
    BitVec.extractLsb'_append_extractLsb'_eq_extractLsb' (by rfl), BitVec.extractLsb'_eq_self]

/-- Codes 0 to 5 name the word registers (R508). -/
theorem Reg.isWord_ofCode_iff (c : BitVec 4) : (Reg.ofCode c).map Reg.isWord = some true ↔ c.toNat ≤ 5 := by
  revert c
  decide

/-- Codes 8 to 0xB name the byte registers (R508). -/
theorem Reg.isByte_ofCode_iff (c : BitVec 4) :
    (Reg.ofCode c).map Reg.isWord = some false ↔ 8 ≤ c.toNat ∧ c.toNat ≤ 11 := by
  revert c
  decide

/-- A postbyte is defined iff both codes lie in the one range or both in the other (R509). -/
theorem exists_decodePair_iff (pb : Byte) : (∃ r1 r2, decodePair pb = some (r1, r2)) ↔
    ((pb.extractLsb' 4 4).toNat ≤ 5 ∧ (pb.extractLsb' 0 4).toNat ≤ 5) ∨
      (8 ≤ (pb.extractLsb' 4 4).toNat ∧ (pb.extractLsb' 4 4).toNat ≤ 11 ∧
        8 ≤ (pb.extractLsb' 0 4).toNat ∧ (pb.extractLsb' 0 4).toNat ≤ 11) := by
  have hwidth : (∃ r1 r2, decodePair pb = some (r1, r2)) ↔
      ∃ w, (Reg.ofCode (pb.extractLsb' 4 4)).map Reg.isWord = some w ∧
        (Reg.ofCode (pb.extractLsb' 0 4)).map Reg.isWord = some w := by
    simp only [decodePair_eq_some, pairDefined, beq_iff_eq, Option.map_eq_some_iff]
    exact ⟨fun ⟨r1, r2, h1, h2, hw⟩ => ⟨_, ⟨r1, h1, hw⟩, ⟨r2, h2, rfl⟩⟩,
      fun ⟨_, ⟨r1, h1, hw1⟩, ⟨r2, h2, hw2⟩⟩ => ⟨r1, r2, h1, h2, hw1.trans hw2.symm⟩⟩
  rw [hwidth, Bool.exists_bool, or_comm]
  simp only [Reg.isWord_ofCode_iff, Reg.isByte_ofCode_iff, and_assoc]

theorem decodePairByte_some (f : Reg → Reg → Instr) {pb : Byte} {r1 r2 : Reg} (h : decodePair pb = some (r1, r2))
    (rest : List Byte) : decodePairByte f (pb :: rest) = .instr (f r1 r2) rest := by
  rw [decodePairByte, h]

theorem decodePairByte_none (f : Reg → Reg → Instr) {pb : Byte} (h : decodePair pb = none) (rest : List Byte) :
    decodePairByte f (pb :: rest) = .malformedOperand pb := by
  rw [decodePairByte, h]

/-- Settles O7: `exists_decodePair_iff`, and the codes of the registers a defined postbyte names are its own. -/
theorem transferPostbytes : Obligations.TransferPostbytes := by
  intro p pb rest c1 c2 legal
  have htfr : decode p (0x1F :: pb :: rest) = decodePairByte .tfr (pb :: rest) := rfl
  have hexg : decode p (0x1E :: pb :: rest) = decodePairByte .exg (pb :: rest) := rfl
  rw [htfr, hexg]
  refine ⟨fun hlegal => ?_, fun hillegal => ?_⟩
  · obtain ⟨r1, r2, h⟩ := (exists_decodePair_iff pb).mpr hlegal
    obtain ⟨h1, h2, -⟩ := decodePair_eq_some.mp h
    exact ⟨r1, r2, Reg.code_of_ofCode h1, Reg.code_of_ofCode h2, decodePairByte_some _ h rest, decodePairByte_some _ h rest⟩
  · have h : decodePair pb = none := Option.eq_none_iff_forall_ne_some.mpr fun (r1, r2) e =>
      hillegal ((exists_decodePair_iff pb).mp ⟨r1, r2, e⟩)
    exact ⟨decodePairByte_none _ h rest, decodePairByte_none _ h rest⟩

/-! ### The indexed postbyte (R171, R178, R210-R227) -/

/-- The offset bytes a postbyte asks for complete an operand that is encoded as `pb` and those bytes. -/
def Postbyte.agrees (pb : Byte) : Postbyte → Prop
  | .done ix => encodeIndexed ix = [pb]
  | .offset8 f => ∀ n, encodeIndexed (f n) = [pb, n]
  | .offset16 f => ∀ n, encodeIndexed (f n) = [pb, hiByte n, loByte n]
  | .illegal => True

@[simp] theorem Postbyte.agrees_done (pb : Byte) (ix : Indexed) :
    (Postbyte.done ix).agrees pb ↔ encodeIndexed ix = [pb] := .rfl

@[simp] theorem Postbyte.agrees_offset8 (pb : Byte) (f : Byte → Indexed) :
    (Postbyte.offset8 f).agrees pb ↔ ∀ n, encodeIndexed (f n) = [pb, n] := .rfl

@[simp] theorem Postbyte.agrees_offset16 (pb : Byte) (f : Word → Indexed) :
    (Postbyte.offset16 f).agrees pb ↔ ∀ n, encodeIndexed (f n) = [pb, hiByte n, loByte n] := .rfl

/-- A postbyte that is refused but where `c` holds agrees where `c` holds. -/
@[simp] theorem Postbyte.agrees_ite (pb : Byte) (c : Prop) [Decidable c] (x : Postbyte) :
    (if c then x else .illegal).agrees pb ↔ (c → x.agrees pb) := by
  by_cases hc : c <;> simp [hc, Postbyte.agrees]

@[simp] theorem IndexReg.code_ofCode (c : BitVec 2) : (IndexReg.ofCode c).code = c := by
  revert c
  decide

/-- A postbyte with bit 7 clear is its register bits and a 5-bit offset (R212). -/
theorem postbyte_offset {pb : Byte} (h7 : pb.getLsbD 7 = false) :
    (0#1 ++ pb.extractLsb' 5 2) ++ pb.extractLsb' 0 5 = pb := by
  revert pb
  decide

/-- A postbyte with bit 7 set is its register bits, its indirect flag and the low four bits of its code (R171, R226). -/
theorem postbyte_code {pb : Byte} {c : Nat} (h7 : pb.getLsbD 7 = true) (hc : (pb.extractLsb' 0 5).toNat = c) :
    pb.getLsbD 4 = decide (16 ≤ c) ∧ postbyte (pb.extractLsb' 5 2) (decide (16 ≤ c)) (BitVec.ofNat 4 c) = pb := by
  subst hc
  revert pb
  decide

/-- Each canonical postbyte is the one its forms are encoded with (R210-R227). -/
theorem decodePostbyte_agrees (pb : Byte) : (decodePostbyte .malformed pb).agrees pb := by
  unfold decodePostbyte
  simp only
  split
  · next h7 => simp [encodeIndexed, postbyte_offset h7]
  · next h7 =>
    split
    case h_24 => trivial -- the codes without a form
    all_goals
      next hc =>
      obtain ⟨hind, hpb⟩ := postbyte_code (Bool.of_not_eq_false h7) hc
      have hcanonical (h0 : pb.extractLsb' 5 2 = 0) : postbyte 0 _ _ = pb := h0 ▸ hpb
      simp_all [encodeIndexed, pcrAdmitted]

/-! ### The operand bytes of each format (R163) -/

theorem decodeByte_instr {f : Byte → Instr} {bs rest : List Byte} {i : Instr} (h : decodeByte f bs = .instr i rest) :
    ∃ v, i = f v ∧ bs = v :: rest := by
  cases bs with
  | nil => cases h
  | cons v bs =>
    cases h
    exact ⟨v, rfl, rfl⟩

theorem decodeWord_instr {f : Word → Instr} {bs rest : List Byte} {i : Instr} (h : decodeWord f bs = .instr i rest) :
    ∃ v, i = f v ∧ bs = hiByte v :: loByte v :: rest := by
  match bs, h with
  | hi :: lo :: bs, h =>
    cases h
    exact ⟨word hi lo, rfl, by rw [hiByte_word, loByte_word]⟩

theorem decodeIndexed_instr {f : Indexed → Instr} {bs rest : List Byte} {i : Instr}
    (h : decodeIndexed .malformed f bs = .instr i rest) : ∃ ix, i = f ix ∧ bs = encodeIndexed ix ++ rest := by
  cases bs with
  | nil => cases h
  | cons pb bs =>
    have hpb := decodePostbyte_agrees pb
    simp only [decodeIndexed] at h
    cases hd : decodePostbyte .malformed pb with
    | illegal => rw [hd] at h; cases h
    | done ix =>
      rw [hd] at h hpb
      cases h
      exact ⟨ix, rfl, by rw [hpb]; rfl⟩
    | offset8 g =>
      rw [hd] at h hpb
      obtain ⟨v, rfl, rfl⟩ := decodeByte_instr h
      exact ⟨g v, rfl, by rw [hpb]; rfl⟩
    | offset16 g =>
      rw [hd] at h hpb
      obtain ⟨v, rfl, rfl⟩ := decodeWord_instr h
      exact ⟨g v, rfl, by rw [hpb]; rfl⟩

theorem decodePairByte_instr {f : Reg → Reg → Instr} {bs rest : List Byte} {i : Instr}
    (h : decodePairByte f bs = .instr i rest) :
    ∃ r1 r2, i = f r1 r2 ∧ bs = pairByte r1 r2 :: rest ∧ pairDefined r1 r2 = true := by
  cases bs with
  | nil => cases h
  | cons pb bs =>
    cases hd : decodePair pb with
    | none => rw [decodePairByte_none f hd] at h; cases h
    | some rr =>
      rw [decodePairByte_some f hd] at h
      cases h
      obtain ⟨rfl, hp⟩ := pairByte_of_decodePair hd
      exact ⟨_, _, rfl, rfl, hp⟩

/-- The operand bytes a format takes are those of the encoding of what it makes, after its opcode bytes (R163, R175). -/
theorem decodeFormat_instr {pre bs rest : List Byte} {op : Word} {fmt : Option Format} {i : Instr}
    (hfmt : ∀ f, fmt = some f → f.agrees pre) (h : decodeFormat .malformed op fmt bs = .instr i rest) :
    pre ++ bs = encode i ++ rest ∧ i.wf = true := by
  cases fmt with
  | none => cases h
  | some f =>
    have ha := hfmt f rfl
    cases f with
    | inh j =>
      cases h
      exact ⟨by rw [ha.1], ha.2⟩
    | imm8 f | dir f =>
      obtain ⟨v, rfl, rfl⟩ := decodeByte_instr h
      obtain ⟨he, hw⟩ := ha v
      exact ⟨by rw [he]; simp, hw⟩
    | imm16 f | ext f =>
      obtain ⟨v, rfl, rfl⟩ := decodeWord_instr h
      obtain ⟨he, hw⟩ := ha v
      exact ⟨by rw [he]; simp, hw⟩
    | idx f =>
      obtain ⟨ix, rfl, rfl⟩ := decodeIndexed_instr h
      obtain ⟨he, hw⟩ := ha ix
      exact ⟨by rw [he]; simp, hw⟩
    | pair f =>
      obtain ⟨r1, r2, rfl, rfl, hp⟩ := decodePairByte_instr h
      obtain ⟨he, hw⟩ := ha r1 r2
      exact ⟨by rw [he]; simp, hw.trans hp⟩

/-- Settles O2: `decodeFormat_instr` on each page, whose formats agree with the encoder. -/
theorem decodedBytesAreTheEncoding : Obligations.DecodedBytesAreTheEncoding := by
  intro bs rest i h
  match bs, h with
  | op :: bs, h =>
    by_cases h10 : op = 0x10
    · subst h10
      cases bs with
      | nil => cases h
      | cons op2 bs =>
        rw [decode_page2] at h
        exact decodeFormat_instr (page2_agrees op2) h
    · by_cases h11 : op = 0x11
      · subst h11
        cases bs with
        | nil => cases h
        | cons op2 bs =>
          rw [decode_page3] at h
          exact decodeFormat_instr (page3_agrees op2) h
      · rw [decode_page1 h10 h11] at h
        exact decodeFormat_instr (page1_agrees op) h

end Sys2Proof
end

section
/-! SUPPORT. The bytes the decoder refuses, and the step on an undefined opcode. -/

namespace Sys2Proof

open Sys2Proof.Machine

/-! ### Illegal indexed postbytes (R211, R227) -/

/-- Whether a postbyte asks for nothing defined. -/
def Postbyte.isIllegal : Postbyte → Bool
  | .illegal => true
  | .done _ | .offset8 _ | .offset16 _ => false

/-- The postbytes of R227, and those of R211 where `PCR_REG_BITS` is malformed: 512 cases, evaluated. -/
theorem decodePostbyte_isIllegal_iff (p : PcrRegBits) (pb : Byte) : (decodePostbyte p pb).isIllegal = true ↔
    (0x80 ≤ pb.toNat ∧ pb &&& 0x1F ∈ ([0x07, 0x0A, 0x0E, 0x0F, 0x10, 0x12, 0x17, 0x1A, 0x1E] : List Byte)) ∨
      (p = .malformed ∧ pb ∈ ([0xAC, 0xCC, 0xEC, 0xAD, 0xCD, 0xED, 0xBC, 0xDC, 0xFC, 0xBD, 0xDD, 0xFD, 0xBF, 0xDF,
        0xFF] : List Byte)) := by
  cases p <;> revert pb <;> decide

theorem decodeByte_reads (f : Byte → Instr) (bs : List Byte) :
    decodeByte f bs = .more ∨ ∃ i rest, decodeByte f bs = .instr i rest := by
  cases bs with
  | nil => exact .inl rfl
  | cons v rest => exact .inr ⟨f v, rest, rfl⟩

theorem decodeWord_reads (f : Word → Instr) (bs : List Byte) :
    decodeWord f bs = .more ∨ ∃ i rest, decodeWord f bs = .instr i rest := by
  match bs with
  | [] | [_] => exact .inl rfl
  | hi :: lo :: rest => exact .inr ⟨f (word hi lo), rest, rfl⟩

/-- The offset bytes of a postbyte are never refused, so that the postbyte alone decides (R605). -/
theorem decodeIndexed_malformed_iff {p : PcrRegBits} {f : Indexed → Instr} {pb : Byte} {rest : List Byte} :
    decodeIndexed p f (pb :: rest) = .malformedOperand pb ↔ (decodePostbyte p pb).isIllegal = true := by
  simp only [decodeIndexed]
  cases decodePostbyte p pb with
  | done ix => simp [Postbyte.isIllegal]
  | offset8 g => rcases decodeByte_reads (fun n => f (g n)) rest with h | ⟨i, r, h⟩ <;> simp [Postbyte.isIllegal, h]
  | offset16 g => rcases decodeWord_reads (fun n => f (g n)) rest with h | ⟨i, r, h⟩ <;> simp [Postbyte.isIllegal, h]
  | illegal => simp [Postbyte.isIllegal]

/-- After the opcode bytes of an indexed instruction, of whichever page, the postbyte is refused iff it is illegal. -/
theorem Opens.malformed_iff {p : PcrRegBits} {pre : List Byte} {f : Indexed → Instr} (h : Opens p pre (.idx f))
    (pb : Byte) (rest : List Byte) :
    decode p (pre ++ pb :: rest) = .malformedOperand pb ↔ (decodePostbyte p pb).isIllegal = true := by
  obtain ⟨op, h⟩ := h
  rw [h]
  exact decodeIndexed_malformed_iff

/-- Settles O6: after the opcode bytes of each page the postbyte alone decides, as `decodePostbyte_isIllegal_iff` tells. -/
theorem illegalIndexedPostbytes : Obligations.IllegalIndexedPostbytes := by
  intro p op pb rest f illegal
  have hillegal := decodePostbyte_isIllegal_iff p pb
  exact ⟨fun h => ((opens_page1 h).malformed_iff pb rest).trans hillegal,
    fun h => ((opens_page2 h).malformed_iff pb rest).trans hillegal,
    fun h => ((opens_page3 h).malformed_iff pb rest).trans hillegal⟩

/-! ### Undefined opcodes (R162, R176, R177) -/

theorem word_inj {hi hi' lo lo' : Byte} : word hi lo = word hi' lo' ↔ hi = hi' ∧ lo = lo' :=
  ⟨fun h => ⟨by rw [← hiByte_word hi lo, h, hiByte_word], by rw [← loByte_word hi lo, h, loByte_word]⟩,
    fun ⟨h1, h2⟩ => h1 ▸ h2 ▸ rfl⟩

theorem decodeIndexed_ne_undefined (p : PcrRegBits) (f : Indexed → Instr) (bs : List Byte) (op : Word) :
    decodeIndexed p f bs ≠ .undefinedOpcode op := by
  cases bs with
  | nil => nofun
  | cons pb rest =>
    simp only [decodeIndexed]
    cases decodePostbyte p pb with
    | done ix | illegal => nofun
    | offset8 g => rcases decodeByte_reads (fun n => f (g n)) rest with h | ⟨i, r, h⟩ <;> simp [h]
    | offset16 g => rcases decodeWord_reads (fun n => f (g n)) rest with h | ⟨i, r, h⟩ <;> simp [h]

theorem decodePairByte_ne_undefined (f : Reg → Reg → Instr) (bs : List Byte) (op : Word) :
    decodePairByte f bs ≠ .undefinedOpcode op := by
  cases bs with
  | nil => nofun
  | cons pb rest =>
    simp only [decodePairByte]
    cases decodePair pb <;> nofun

/-- Operand bytes are never an undefined opcode: only an opcode value without a format is (R603). -/
theorem decodeFormat_undefined_iff {p : PcrRegBits} {op op' : Word} {fmt : Option Format} {bs : List Byte} :
    decodeFormat p op fmt bs = .undefinedOpcode op' ↔ fmt = none ∧ op = op' := by
  cases fmt with
  | none => simp [decodeFormat]
  | some fmt =>
    cases fmt with
    | inh i => simp [decodeFormat]
    | imm8 f | dir f => rcases decodeByte_reads f bs with h | ⟨i, r, h⟩ <;> simp [decodeFormat, h]
    | imm16 f | ext f => rcases decodeWord_reads f bs with h | ⟨i, r, h⟩ <;> simp [decodeFormat, h]
    | idx f => simp [decodeFormat, decodeIndexed_ne_undefined]
    | pair f => simp [decodeFormat, decodePairByte_ne_undefined]

section
variable (p : PcrRegBits) (op : Byte) (rest : List Byte)

/-- A first byte is an undefined opcode iff page 1 has no format for it and it names no other page (R162). -/
theorem decode_page1_undefined_iff : decode p (op :: rest) = .undefinedOpcode (word 0 op) ↔
    page1 op.toNat = none ∧ op ≠ 0x10 ∧ op ≠ 0x11 := by
  by_cases h10 : op = 0x10
  · subst h10
    cases rest <;> simp [decode, decodeFormat_undefined_iff, word_inj]
  · by_cases h11 : op = 0x11
    · subst h11
      cases rest <;> simp [decode, decodeFormat_undefined_iff, word_inj]
    · rw [decode_page1 h10 h11, decodeFormat_undefined_iff]
      exact ⟨fun ⟨h, _⟩ => ⟨h, h10, h11⟩, fun ⟨h, _⟩ => ⟨h, rfl⟩⟩

theorem decode_page2_undefined_iff :
    decode p (0x10 :: op :: rest) = .undefinedOpcode (word 0x10 op) ↔ page2 op.toNat = none := by
  rw [decode_page2, decodeFormat_undefined_iff, and_iff_left rfl]

theorem decode_page3_undefined_iff :
    decode p (0x11 :: op :: rest) = .undefinedOpcode (word 0x11 op) ↔ page3 op.toNat = none := by
  rw [decode_page3, decodeFormat_undefined_iff, and_iff_left rfl]

end

/-- The bytes page 1 has no format for, 0x10 and 0x11 apart (R176): 256 cases, evaluated. -/
theorem page1_undefined_iff (op : Byte) : page1 op.toNat = none ∧ op ≠ 0x10 ∧ op ≠ 0x11 ↔
    op ∈ ([0x01, 0x02, 0x05, 0x0B, 0x14, 0x15, 0x18, 0x1B, 0x38, 0x3E, 0x41, 0x42, 0x45, 0x4B, 0x4E, 0x51, 0x52, 0x55,
      0x5B, 0x5E, 0x61, 0x62, 0x65, 0x6B, 0x71, 0x72, 0x75, 0x7B, 0x87, 0x8F, 0xC7, 0xCD, 0xCF] : List Byte) := by
  rw [← Option.isNone_iff_eq_none]
  revert op
  decide

/-- The bytes page 2 has no format for (R177): 256 cases, evaluated. -/
theorem page2_undefined_iff (op : Byte) : page2 op.toNat = none ↔ ¬ (0x21 ≤ op.toNat ∧ op.toNat ≤ 0x2F) ∧
    op ∉ ([0x3F, 0x83, 0x8C, 0x8E, 0x93, 0x9C, 0x9E, 0x9F, 0xA3, 0xAC, 0xAE, 0xAF, 0xB3, 0xBC, 0xBE, 0xBF, 0xCE, 0xDE,
      0xDF, 0xEE, 0xEF, 0xFE, 0xFF] : List Byte) := by
  rw [← Option.isNone_iff_eq_none]
  revert op
  decide

/-- The bytes page 3 has no format for (R177): 256 cases, evaluated. -/
theorem page3_undefined_iff (op : Byte) : page3 op.toNat = none ↔
    op ∉ ([0x3F, 0x83, 0x8C, 0x93, 0x9C, 0xA3, 0xAC, 0xB3, 0xBC] : List Byte) := by
  rw [← Option.isNone_iff_eq_none]
  revert op
  decide

end Sys2Proof

namespace Sys2Proof.Machine

/-! ### The step on an undefined opcode (R603) -/

/-- Where the bytes fetched are cut short and with one more end in an undefined opcode, the step ends with that error. -/
theorem step_of_undefinedOpcode {s : State} {n : Nat} {op : Word} (hw : (s.cwaiWait || s.syncWait) = false)
    (hmore : decode s.cfg.pcrRegBits (fetchBytes n s).1 = .more)
    (h : decode s.cfg.pcrRegBits (fetchBytes (n + 1) s).1 = .undefinedOpcode op) :
    step s = .fault (.decodeError op (fetchBytes (n + 1) s).2) := by
  have hlength {m : Nat} := fetch_length_unique (m := m) hmore (by rw [h]; nofun)
  rcases step_cases s with ⟨hw', -⟩ | ⟨-, ⟨m, i, rest, hd, hm, -⟩ | ⟨m, op', hd, hm, e⟩ | ⟨m, pb, hd, hm, -⟩ | h5⟩
  · rw [hw] at hw'
    cases hw'
  · obtain rfl := hlength hm (by rw [hd]; nofun)
    cases hd.symm.trans h
  · obtain rfl := hlength hm (by rw [hd]; nofun)
    obtain rfl := Decoded.undefinedOpcode.inj (hd.symm.trans h)
    exact e
  · obtain rfl := hlength hm (by rw [hd]; nofun)
    cases hd.symm.trans h
  · exact absurd h5 (decode_ne_more (fetchBytes_length 5 s).ge)

/-- The bytes `pre`, which are cut short, and `b` fetched, where `pre` and `b` are an undefined opcode: the step ends with
DecodeError of it, and PC is past the bytes fetched (R603, R604). -/
theorem step_fetched_undefined {s : State} {pre : List Byte} {b : Byte} {op : Word}
    (hw : (s.cwaiWait || s.syncWait) = false) (hf : (fetchBytes (pre.length + 1) s).1 = pre ++ [b])
    (hmore : decode s.cfg.pcrRegBits pre = .more) (hop : decode s.cfg.pcrRegBits (pre ++ [b]) = .undefinedOpcode op) :
    ∃ t, step s = .fault (.decodeError op t) ∧ t.pc = s.pc + BitVec.ofNat 16 (pre.length + 1) := by
  have hpre : (fetchBytes pre.length s).1 = pre := by
    rw [fetchBytes_succ] at hf
    exact List.append_inj_left' hf rfl
  refine ⟨_, step_of_undefinedOpcode hw (hpre.symm ▸ hmore) (hf ▸ hop), ?_⟩
  rw [fetchBytes_frame]

/-- Settles O5: the pages' missing formats are the lists, and `step_fetched_undefined` is the step. -/
theorem undefinedOpcodes : Obligations.UndefinedOpcodes := by
  intro p op rest s undefined1 undefined2 undefined3
  have h1 (q : PcrRegBits) (bs : List Byte) : decode q (op :: bs) = .undefinedOpcode (word 0 op) ↔ undefined1 :=
    (decode_page1_undefined_iff q op bs).trans (page1_undefined_iff op)
  have h2 (q : PcrRegBits) (bs : List Byte) : decode q (0x10 :: op :: bs) = .undefinedOpcode (word 0x10 op) ↔ undefined2 :=
    (decode_page2_undefined_iff q op bs).trans (page2_undefined_iff op)
  have h3 (q : PcrRegBits) (bs : List Byte) : decode q (0x11 :: op :: bs) = .undefinedOpcode (word 0x11 op) ↔ undefined3 :=
    (decode_page3_undefined_iff q op bs).trans (page3_undefined_iff op)
  refine ⟨h1 p rest, h2 p rest, h3 p rest, fun hc hy => ?_⟩
  have hw : (s.cwaiWait || s.syncWait) = false := by rw [hc, hy, Bool.or_false]
  exact ⟨fun hu hf => step_fetched_undefined (pre := []) hw hf rfl ((h1 _ _).mpr hu),
    fun hu hf => step_fetched_undefined (pre := [0x10]) hw hf rfl ((h2 _ _).mpr hu),
    fun hu hf => step_fetched_undefined (pre := [0x11]) hw hf rfl ((h3 _ _).mpr hu)⟩

end Sys2Proof.Machine
end

section
/-! SUPPORT. What resolving and reading an operand does, and the tick counts of its forms. -/

namespace Sys2Proof.Machine

/-- The resolver moves each index register by `indexDelta` (R213-R216, R228). -/
theorem afterAddress_index (m : MemOperand) (s : State) (r : IndexReg) :
    (afterAddress m s).index r = s.index r + indexDelta m r := by
  cases r <;> rfl

/-- An 8-bit operand in memory is one byte read at the effective address (R202, R207). -/
theorem operand8_mem (m : MemOperand) (s : State) :
    operand8 (.mem m) s = readByte (effectiveAddress m s).1 (afterAddress m s) := by
  rw [← effectiveAddress_state]
  rfl

/-- A 16-bit operand in memory is one word read at the effective address (R202, R207). -/
theorem operand16_mem (m : MemOperand) (s : State) :
    operand16 (.mem m) s = readWord (effectiveAddress m s).1 (afterAddress m s) := by
  rw [← effectiveAddress_state]
  rfl

/-- The bytes the resolver consumes are the bytes the form is encoded in (R171, R228). -/
theorem bytesConsumed_eq (ix : Indexed) : bytesConsumed ix = (encodeIndexed ix).length := by
  cases ix <;> rfl

/-- Settles O35: the frames of the resolver and of the operands, and the forms by their definitions. -/
theorem operandFrame : Obligations.OperandFrame := by
  intro s
  refine ⟨fun m => ⟨effectiveAddress_state m s, afterAddress_index m s⟩, fun o => operand8_frame o s,
    fun o => operand16_frame o s, fun m => operand8_mem m s, fun m => operand16_mem m s, fun _ => rfl, fun _ => rfl,
    fun _ _ => rfl, fun _ _ _ => rfl, fun _ _ => rfl, fun _ _ _ => rfl, ?still, fun _ _ => ⟨rfl, rfl⟩,
    fun _ _ _ => ⟨rfl, rfl⟩, bytesConsumed_eq, fun _ _ _ ix => ⟨rfl, rfl, ?ticks⟩, fun _ _ _ _ => ⟨rfl, rfl, rfl, rfl⟩⟩
  case still =>
    intro d n8 a n16 n5 q r ind m hm
    simp only [List.mem_cons, List.not_mem_nil, or_false] at hm
    rcases hm with rfl | rfl | rfl | rfl | rfl | rfl | rfl | rfl | rfl | rfl | rfl | rfl <;> rfl
  case ticks => rw [memTicks, bytesConsumed_eq]

end Sys2Proof.Machine
end

section
/-! SUPPORT. Effective addresses as sums over the integers mod 2^16, and the instructions that store or load a register by
them. -/

namespace Sys2Proof.Machine

/-! ### Effective addresses -/

/-- Subtracting a word is subtracting its signed value, mod 2^16. -/
theorem sub_word (w v : Word) : w - v = BitVec.ofInt 16 (w.toNat - v.toInt) := by
  apply BitVec.eq_of_toInt_eq
  rw [BitVec.toInt_sub, BitVec.toInt_ofInt, BitVec.toInt_eq_toNat_bmod w, Int.bmod_sub_bmod]

/-- Adding D is adding A and B as one unsigned number, mod 2^16 (R53). -/
theorem add_d (w : Word) (s : State) : w + s.d = BitVec.ofInt 16 (w.toNat + (s.a.toNat * 256 + s.b.toNat)) := by
  apply BitVec.eq_of_toNat_eq
  rw [BitVec.toNat_add, State.d, toNat_word, BitVec.toNat_ofInt]
  omega

/-- Settles O34: the forms' sums are `add_sext5`, `add_sext8`, `add_word`, `sub_word` and `add_d`; an indirect form reads
the pointer at its direct one's address by definition. -/
theorem effectiveAddresses : Obligations.EffectiveAddresses := by
  intro s
  refine ⟨fun d => toNat_word s.dp d, fun _ => rfl, add_sext8 s.pc, add_word s.pc, fun r => ?direct,
    fun r n8 n16 => ⟨rfl, fun f hf => ?indirect⟩⟩
  case direct =>
    exact ⟨add_sext5 _, rfl, rfl, sub_word _ 1, sub_word _ 2, rfl, add_sext8 _ _, add_sext8 _ _, add_sext8 _, add_word _,
      add_d _ s⟩
  case indirect =>
    simp only [List.mem_cons, List.not_mem_nil, or_false] at hf
    rcases hf with rfl | rfl | rfl | rfl | rfl | rfl | rfl | rfl | rfl | rfl <;> rfl

/-! ### Stores -/

theorem Flags.move8_eq (v : Byte) (cc : CC) :
    Flags.move8 v cc = { cc with n := v.getLsbD 7, z := decide (v = 0), v := false } := by
  rw [move8, nz8_eq]

theorem Flags.move16_eq (v : Word) (cc : CC) :
    Flags.move16 v cc = { cc with n := v.getLsbD 15, z := decide (v = 0), v := false } := by
  rw [move16, nz16_eq]

@[simp] theorem writeByte_ticks (va : Word) (v : Byte) (s : State) : (writeByte va v s).ticks = s.ticks :=
  (congrArg State.ticks (writeByte_frame va v s) :)

@[simp] theorem writeWord_ticks (va v : Word) (s : State) : (writeWord va v s).ticks = s.ticks :=
  (congrArg State.ticks (writeWord_frame va v s) :)

section
variable (m : MemOperand) (s : State)

/-- A byte register stored, as the resolver left it (R229, R250, R258, R259). -/
theorem store8_eq (get : State → Byte) (base : Nat) :
    let v := get (afterAddress m s)
    store8 get base m s = { writeByte (effectiveAddress m s).1 v (afterAddress m s) with
      cc := { s.cc with n := v.getLsbD 7, z := decide (v = 0), v := false }, ticks := s.ticks + memTicks base m } := by
  simp only [store8, effectiveAddress_state, Flags.move8_eq, writeByte_cc, State.setCC, State.tick, writeByte_ticks]
  rfl

/-- A word register stored, as the resolver left it (R229, R250, R260-R264). -/
theorem store16_eq (get : State → Word) (base : Nat) :
    let v := get (afterAddress m s)
    store16 get base m s = { writeWord (effectiveAddress m s).1 v (afterAddress m s) with
      cc := { s.cc with n := v.getLsbD 15, z := decide (v = 0), v := false }, ticks := s.ticks + memTicks base m } := by
  simp only [store16, effectiveAddress_state, Flags.move16_eq, writeWord_cc, State.setCC, State.tick, writeWord_ticks]
  rfl

end

/-- Settles O37: each instruction is a store of one register; the resolver moves neither A nor B. -/
theorem stores : Obligations.Stores := by
  intro s m ea r cc8 cc16
  refine ⟨?sta, ?stb, ?std, ?stx, ?sty, ?stu, ?sts⟩
  case sta => exact congrArg Host.Outcome.next (store8_eq m s State.a 4)
  case stb => exact congrArg Host.Outcome.next (store8_eq m s State.b 4)
  case std => exact congrArg Host.Outcome.next (store16_eq m s State.d 5)
  case stx => exact congrArg Host.Outcome.next (store16_eq m s State.x 5)
  case sty => exact congrArg Host.Outcome.next (store16_eq m s State.y 6)
  case stu => exact congrArg Host.Outcome.next (store16_eq m s State.u 5)
  case sts => exact congrArg Host.Outcome.next (store16_eq m s State.sp 6)

/-! ### Load effective address -/

section
variable (ix : Indexed) (s : State)

/-- The resolver of an indexed operand, its state by the frame (R205, R210). -/
theorem indexedEA_eq : indexedEA ix s = ((effectiveAddress (.idx ix) s).1, afterAddress (.idx ix) s) := by
  rw [← effectiveAddress_state]
  rfl

/-- A register takes the effective address over the resolver's update, no flag written (R229, R267, R268). -/
theorem lea_eq (set : State → Word → State) :
    lea set ix s = (set (afterAddress (.idx ix) s) (effectiveAddress (.idx ix) s).1).tick (4 + bytesConsumed ix) := by
  rw [lea, indexedEA_eq]

/-- The same with Z of the address and no other flag written (R229, R265, R266). -/
theorem leaZ_eq (set : State → Word → State) :
    leaZ set ix s = ((set (afterAddress (.idx ix) s) (effectiveAddress (.idx ix) s).1).setCC
      { s.cc with z := decide ((effectiveAddress (.idx ix) s).1 = 0) }).tick (4 + bytesConsumed ix) := by
  rw [leaZ, indexedEA_eq]
  rfl

end

/-- Settles O38: `leaZ_eq` and `lea_eq`, each of two registers. -/
theorem loadEffectiveAddress : Obligations.LoadEffectiveAddress := by
  intro s ix ea r n
  refine ⟨?leax, ?leay, ?leau, ?leas⟩
  case leax => exact congrArg Host.Outcome.next (leaZ_eq ix s State.setX)
  case leay => exact congrArg Host.Outcome.next (leaZ_eq ix s State.setY)
  case leau => exact congrArg Host.Outcome.next (lea_eq ix s State.setU)
  case leas => exact congrArg Host.Outcome.next (lea_eq ix s State.setSp)

end Sys2Proof.Machine
end

section
/-! SUPPORT. 16-bit arithmetic and compares in the terms of the spec's text. -/

namespace Sys2Proof.Machine

namespace Flags

/-- `Add16` with C the carry and V the signed sum out of range (R62, R400). -/
theorem add16_eq (a m : Word) (cc : CC) :
    let sum := BitVec.ofNat 16 (a.toNat + m.toNat)
    add16 a m cc = (sum, { cc with
      n := sum.getLsbD 15, z := decide (sum = 0)
      v := decide (a.toInt + m.toInt < -32768 ∨ 32767 < a.toInt + m.toInt)
      c := decide (65535 < a.toNat + m.toNat) }) := by
  intro sum
  simp only [add16, nz16_eq, add16_v, sum]

/-- A difference is zero mod 65536 iff its terms are equal. -/
theorem ofInt_sub_eq_zero_iff (a m : Word) : BitVec.ofInt 16 ((a.toNat : Int) - m.toNat) = 0 ↔ a = m := by
  rw [← BitVec.toNat_inj, ← BitVec.toNat_inj, BitVec.toNat_ofInt]
  have ha := a.isLt
  have hm := m.isLt
  simp only [BitVec.ofNat_eq_ofNat, BitVec.toNat_ofNat]
  omega

/-- `Sub16` with C the borrow and V the signed difference out of range (R62, R401). -/
theorem sub16_eq (a m : Word) (cc : CC) :
    let diff := BitVec.ofInt 16 ((a.toNat : Int) - m.toNat)
    sub16 a m cc = (diff, { cc with
      n := diff.getLsbD 15, z := decide (a = m)
      v := decide (a.toInt - m.toInt < -32768 ∨ 32767 < a.toInt - m.toInt)
      c := decide (a.toNat < m.toNat) }) := by
  intro diff
  have hc : ((a.toNat : Int) - m.toNat < 0) ↔ a.toNat < m.toNat := by omega
  simp only [sub16, nz16_eq, sub16_v, ofInt_sub_eq_zero_iff, hc, diff]

end Flags

theorem operand16_state (o : Operand16) (s : State) : (operand16 o s).2 = afterOperand16 o s := operand16_frame o s

section
variable {v : Word} {cc : CC} {o : Operand16} {s : State}

/-- An operation on D, by what its law gives of D, the operand and the flags before (R400-R404). -/
theorem arith16_eq {law : Word → Word → CC → Word × CC} (base : Nat)
    (hlaw : law s.d (operand16 o s).1 s.cc = (v, cc)) :
    arith16 law base o s = { afterOperand16 o s with
      a := hiByte v, b := loByte v, cc := cc, ticks := s.ticks + ticks16 base o } := by
  have hafter : law (afterOperand16 o s).d (operand16 o s).1 (afterOperand16 o s).cc = (v, cc) := hlaw
  simp only [arith16, operand16_state, hafter]
  rfl

/-- A compare of a register as the resolver left it, by what `Sub16` gives (R229, R401, R405-R409). -/
theorem compare16_eq (get : State → Word) (base : Nat)
    (hsub : Flags.sub16 (get (afterOperand16 o s)) (operand16 o s).1 s.cc = (v, cc)) :
    compare16 get base o s = { afterOperand16 o s with cc := cc, ticks := s.ticks + ticks16 base o } := by
  have hafter : Flags.sub16 (get (afterOperand16 o s)) (operand16 o s).1 (afterOperand16 o s).cc = (v, cc) := hsub
  simp only [compare16, operand16_state, hafter]
  rfl

end

/-- Settles O45: each instruction is an operation on D or a compare, and its law is what the statement says. -/
theorem arithmetic16 : Obligations.Arithmetic16 := by
  intro s o m r sum diff cc
  have hsub (w : Word) : Flags.sub16 w m s.cc = (diff w, cc w) := Flags.sub16_eq w m s.cc
  refine ⟨?addd, ?subd, ?cmpd, ?cmpx, ?cmpy, ?cmpu, ?cmps⟩
  case addd => exact congrArg Host.Outcome.next (arith16_eq 4 (Flags.add16_eq s.d m s.cc))
  case subd => exact congrArg Host.Outcome.next (arith16_eq 4 (hsub s.d))
  case cmpd => exact congrArg Host.Outcome.next (compare16_eq State.d 5 (hsub s.d))
  case cmpx => exact congrArg Host.Outcome.next (compare16_eq State.x 4 (hsub r.x))
  case cmpy => exact congrArg Host.Outcome.next (compare16_eq State.y 5 (hsub r.y))
  case cmpu => exact congrArg Host.Outcome.next (compare16_eq State.u 5 (hsub r.u))
  case cmps => exact congrArg Host.Outcome.next (compare16_eq State.sp 5 (hsub r.sp))

end Sys2Proof.Machine
end

section
/-! SUPPORT. Loads: a register takes the operand over the resolver's update, its flags those of the operand. -/

namespace Sys2Proof.Machine

theorem operand8_state (o : Operand8) (s : State) : (operand8 o s).2 = afterOperand8 o s := operand8_frame o s

/-- A byte register loaded: N and Z of the operand, V cleared, the other flags those of the state before (R250-R252). -/
theorem load8_eq (set : State → Byte → State) (base : Nat) (o : Operand8) (s : State) :
    let v := (operand8 o s).1
    load8 set base o s = ((set (afterOperand8 o s) v).setCC
      { s.cc with n := v.getLsbD 7, z := decide (v = 0), v := false }).tick (ticks8 base o) := by
  simp only [load8, operand8_state, Flags.move8_eq]
  rfl

/-- A word register loaded: N and Z of the operand, V cleared, the other flags those of the state before
(R250, R253-R257). -/
theorem load16_eq (set : State → Word → State) (base : Nat) (o : Operand16) (s : State) :
    let v := (operand16 o s).1
    load16 set base o s = ((set (afterOperand16 o s) v).setCC
      { s.cc with n := v.getLsbD 15, z := decide (v = 0), v := false }).tick (ticks16 base o) := by
  simp only [load16, operand16_state, Flags.move16_eq]
  rfl

/-- Settles O36: each instruction is `load8` or `load16` of one register, whose setter writes that register alone. -/
theorem loads : Obligations.Loads := by
  intro s
  refine ⟨fun o => ⟨?lda, ?ldb⟩, fun o => ⟨?ldd, ?ldx, ?ldy, ?ldu, ?lds⟩⟩
  case lda => exact congrArg Host.Outcome.next (load8_eq State.setA 2 o s)
  case ldb => exact congrArg Host.Outcome.next (load8_eq State.setB 2 o s)
  case ldd => exact congrArg Host.Outcome.next (load16_eq State.setD 3 o s)
  case ldx => exact congrArg Host.Outcome.next (load16_eq State.setX 3 o s)
  case ldy => exact congrArg Host.Outcome.next (load16_eq State.setY 4 o s)
  case ldu => exact congrArg Host.Outcome.next (load16_eq State.setU 3 o s)
  case lds => exact congrArg Host.Outcome.next (load16_eq State.setSp 4 o s)

end Sys2Proof.Machine
end

section
/-! SUPPORT. The 8-bit additions, the logical operations, MUL, SEX and ABX in the terms of the spec's text. -/

namespace Sys2Proof.Machine

namespace Flags

/-- `Add8` with V by the signs of the operands and of the sum (R300). -/
theorem add8_eq (a m : Byte) (cin : Bool) (cc : CC) :
    let res := BitVec.ofNat 8 (a.toNat + m.toNat + cin.toNat)
    add8 a m cin cc = (res, { cc with
      h := decide (15 < a.toNat % 16 + m.toNat % 16 + cin.toNat), n := res.getLsbD 7, z := decide (res = 0)
      v := a.getLsbD 7 == m.getLsbD 7 && res.getLsbD 7 != a.getLsbD 7
      c := decide (255 < a.toNat + m.toNat + cin.toNat) }) := by
  intro res
  simp only [add8, nz8_eq, add8_v, res]

/-- The product of two bytes fits a word (R324). -/
theorem toNat_ofNat_mul (a b : Byte) : (BitVec.ofNat 16 (a.toNat * b.toNat)).toNat = a.toNat * b.toNat := by
  have hlt : a.toNat * b.toNat < 256 * 256 := Nat.mul_lt_mul'' a.isLt b.isLt
  rw [BitVec.toNat_ofNat, Nat.mod_eq_of_lt hlt]

/-- MUL with Z by its factors and C by the low byte of the product (R324). -/
theorem mul_eq (a b : Byte) (cc : CC) :
    mul a b cc = (BitVec.ofNat 16 (a.toNat * b.toNat), { cc with
      z := decide (a = 0 ∨ b = 0), c := decide (128 ≤ a.toNat * b.toNat % 256) }) := by
  have hz : BitVec.ofNat 16 (a.toNat * b.toNat) = 0 ↔ a = 0 ∨ b = 0 := by
    rw [← BitVec.toNat_inj, toNat_ofNat_mul, ← BitVec.toNat_inj, ← BitVec.toNat_inj]
    exact Nat.mul_eq_zero
  have hc : (BitVec.ofNat 16 (a.toNat * b.toNat)).getLsbD 7 = decide (128 ≤ a.toNat * b.toNat % 256) := by
    rw [BitVec.getLsbD, toNat_ofNat_mul, Nat.testBit_eq_decide_div_mod_eq, decide_eq_decide]
    omega
  simp only [mul, ← hz, hc, BEq.beq]

end Flags

section
variable (get : State → Byte) (set : State → Byte → State) (o : Operand8) (s : State)

/-- An addition, by what its law gives of the register, the operand and the flags before (R300, R303-R306). -/
theorem arith8_eq (law : Byte → Byte → CC → Byte × CC) {v : Byte} {cc : CC}
    (hget : get (afterOperand8 o s) = get s) (hlaw : law (get s) (operand8 o s).1 s.cc = (v, cc)) :
    arith8 get set law o s = (set ((afterOperand8 o s).setCC cc) v).tick (ticks8 2 o) := by
  have hafter : law (get s) (operand8 o s).1 (afterOperand8 o s).cc = (v, cc) := hlaw
  simp only [arith8, operand8_state, hget, hafter]

/-- A logical operation: N and Z of the result, V cleared, the other flags those of the state before (R302, R313-R318). -/
theorem logic8_eq (f : Byte → Byte → Byte) (hget : get (afterOperand8 o s) = get s) :
    let v := f (get s) (operand8 o s).1
    logic8 get set f o s = ((set (afterOperand8 o s) v).setCC
      { s.cc with n := v.getLsbD 7, z := decide (v = 0), v := false }).tick (ticks8 2 o) := by
  simp only [logic8, operand8_state, hget, Flags.move8_eq]
  rfl

/-- A bit test: the flags of the conjunction and no register written (R302, R319, R320). -/
theorem bitTest8_eq (hget : get (afterOperand8 o s) = get s) :
    let v := get s &&& (operand8 o s).1
    bitTest8 get o s = ((afterOperand8 o s).setCC
      { s.cc with n := v.getLsbD 7, z := decide (v = 0), v := false }).tick (ticks8 2 o) := by
  simp only [bitTest8, operand8_state, hget, Flags.move8_eq]
  rfl

end

/-- Settles O39: each instruction is an addition to A or B, which the resolver leaves alone, and `Add8` is what the
statement says. -/
theorem add8 : Obligations.Add8 := by
  intro s o m r res cc
  have hadd (a : Byte) (cin : Bool) : Flags.add8 a m cin s.cc = (res a cin, cc a cin) := Flags.add8_eq a m cin s.cc
  refine ⟨?adda, ?addb, ?adca, ?adcb⟩
  case adda => exact congrArg Host.Outcome.next (arith8_eq State.a State.setA o s addLaw rfl (hadd s.a false) :)
  case addb => exact congrArg Host.Outcome.next (arith8_eq State.b State.setB o s addLaw rfl (hadd s.b false) :)
  case adca => exact congrArg Host.Outcome.next (arith8_eq State.a State.setA o s adcLaw rfl (hadd s.a s.cc.c) :)
  case adcb => exact congrArg Host.Outcome.next (arith8_eq State.b State.setB o s adcLaw rfl (hadd s.b s.cc.c) :)

/-- Settles O41: each instruction is `logic8` or `bitTest8` of A or B, which the resolver leaves alone; ANDCC and ORCC
are the bytewise operations on CC. -/
theorem logic8_and_bitTest8 : Obligations.Logic8 := by
  intro s
  refine ⟨fun o => ⟨?anda, ?andb, ?ora, ?orb, ?eora, ?eorb, ?bita, ?bitb⟩, fun m => ⟨?andcc, ?orcc⟩⟩
  case anda => exact congrArg Host.Outcome.next (logic8_eq State.a State.setA o s _ rfl)
  case andb => exact congrArg Host.Outcome.next (logic8_eq State.b State.setB o s _ rfl)
  case ora => exact congrArg Host.Outcome.next (logic8_eq State.a State.setA o s _ rfl)
  case orb => exact congrArg Host.Outcome.next (logic8_eq State.b State.setB o s _ rfl)
  case eora => exact congrArg Host.Outcome.next (logic8_eq State.a State.setA o s _ rfl)
  case eorb => exact congrArg Host.Outcome.next (logic8_eq State.b State.setB o s _ rfl)
  case bita => exact congrArg Host.Outcome.next (bitTest8_eq State.a o s rfl)
  case bitb => exact congrArg Host.Outcome.next (bitTest8_eq State.b o s rfl)
  case andcc => exact congrArg (fun cc => Host.Outcome.next ((s.setCC cc).tick 3)) (CC.andByte_eq s.cc m)
  case orcc => exact congrArg (fun cc => Host.Outcome.next ((s.setCC cc).tick 3)) (CC.orByte_eq s.cc m)

/-! ### MUL, SEX and ABX -/

/-- The byte SEX writes to A makes D the signed value of B (R325). -/
theorem word_signFill_toInt (b : Byte) : (word (if b.getLsbD 7 then 0xFF else 0x00) b).toInt = b.toInt := by
  revert b
  decide

/-- V after SEX is kept or cleared (R325). -/
theorem sexV_eq (s : State) : sexV s = (s.cc.v && decide (s.cfg.sexV = .unchanged)) := by
  unfold sexV
  cases s.cfg.sexV
  · exact (Bool.and_true _).symm
  · exact (Bool.and_false _).symm

/-- The flags of a word are those of a byte of the same signed value (R12, R325). -/
theorem Flags.nz16_of_toInt {w : Word} {b : Byte} (h : w.toInt = b.toInt) (cc : CC) :
    Flags.nz16 w cc = { cc with n := decide (b.toInt < 0), z := decide (b = 0) } := by
  have hz : w = 0 ↔ b = 0 := by rw [← BitVec.toInt_inj, ← BitVec.toInt_inj, h]; rfl
  simp only [Flags.nz16, BitVec.msb_eq_toInt, h, BEq.beq, hz]

/-- MUL writes D and, of the flags, Z and C (R324). -/
theorem exec_mul_eq (s : State) : exec .mul s = .next (((s.setD (BitVec.ofNat 16 (s.a.toNat * s.b.toNat))).setCC
    { s.cc with z := decide (s.a = 0 ∨ s.b = 0), c := decide (128 ≤ s.a.toNat * s.b.toNat % 256) }).tick 11) := by
  show execMul s = _
  simp only [execMul, Flags.mul_eq]

/-- SEX writes A, N and Z by the sign and value of B, and V per `SEX_V` (R325). -/
theorem exec_sex_eq (s : State) : exec .sex s = .next (((s.setA (if s.b.getLsbD 7 then 0xFF else 0x00)).setCC
    { s.cc with
      n := decide (s.b.toInt < 0), z := decide (s.b = 0)
      v := s.cc.v && decide (s.cfg.sexV = .unchanged) }).tick 2) := by
  have hd : (s.setA (if s.b.getLsbD 7 then 0xFF else 0x00)).d.toInt = s.b.toInt := word_signFill_toInt s.b
  show execSex s = _
  simp only [execSex, Flags.nz16_of_toInt hd, sexV_eq]
  rfl

/-- Adding a zero-extended byte is adding its unsigned value, mod 2^16 (R9). -/
theorem add_zext8 (w : Word) (v : Byte) : w + zext8 v = BitVec.ofNat 16 (w.toNat + v.toNat) := by
  apply BitVec.eq_of_toNat_eq
  simp [zext8]

/-- Settles O42: `exec_mul_eq`, where D reads back as the product, `exec_sex_eq`, where D reads as B extended, and
`add_zext8`. -/
theorem multiplyExtendAddIndex : Obligations.MultiplyExtendAddIndex := by
  intro s
  refine ⟨⟨_, exec_mul_eq s, ?product, rfl⟩, ⟨_, exec_sex_eq s, word_signFill_toInt s.b, rfl⟩, ?abx⟩
  case product => exact (congrArg BitVec.toNat (State.d_setD s _)).trans (Flags.toNat_ofNat_mul s.a s.b)
  case abx => exact congrArg (fun v => Host.Outcome.next ((s.setX v).tick 3)) (add_zext8 s.x s.b)

/-! ### Decimal addition -/

/-- A byte that holds two decimal digits (R323). -/
def IsDecimal (n : Nat) : Prop := n / 16 ≤ 9 ∧ n % 16 ≤ 9

/-- The number that two decimal digits stand for. -/
def decimalValue (n : Nat) : Nat := n / 16 * 10 + n % 16

/-- The correction of R323 makes the binary sum of two decimal numbers their decimal one: a digit is corrected where its
column, with the carry into it, exceeds 9. -/
theorem decimal_correction {a m cin : Nat} (ha : IsDecimal a) (hm : IsDecimal m) (hcin : cin ≤ 1) :
    let sum := (a + m + cin) % 256
    let low := 15 < a % 16 + m % 16 + cin ∨ 9 < sum % 16
    let high := 255 < a + m + cin ∨ 9 < sum / 16 ∨ (8 < sum / 16 ∧ 9 < sum % 16)
    let res := (sum + (if low then 6 else 0) + (if high then 96 else 0)) % 256
    IsDecimal res ∧ decimalValue res + (if high then 100 else 0) = decimalValue a + decimalValue m + cin := by
  intro sum low high res
  unfold IsDecimal at ha hm
  have hlow : low ↔ 9 < a % 16 + m % 16 + cin := by omega
  have hhigh : high ↔ 9 < a / 16 + m / 16 + (if low then 1 else 0) := by split <;> omega
  unfold IsDecimal decimalValue
  by_cases hl : low <;> by_cases hh : high
  all_goals
    simp only [res, hl, hh, if_true, if_false] at hhigh ⊢
    omega

/-- DAA where A, H and C are those of an addition of two decimal numbers (R300, R323). -/
theorem daa_of_decimal_sum {a m : Byte} {t r : State} (cin : Bool) (ha : IsDecimal a.toNat) (hm : IsDecimal m.toNat)
    (hsum : t.a = BitVec.ofNat 8 (a.toNat + m.toNat + cin.toNat))
    (hhalf : t.cc.h = decide (15 < a.toNat % 16 + m.toNat % 16 + cin.toNat))
    (hcarry : t.cc.c = decide (255 < a.toNat + m.toNat + cin.toNat)) (hdaa : exec .daa t = .next r) :
    IsDecimal r.a.toNat ∧ decimalValue r.a.toNat + (if r.cc.c then 100 else 0) =
      decimalValue a.toNat + decimalValue m.toNat + cin.toNat := by
  obtain rfl := Host.Outcome.next.inj ((decimalAdjust t).symm.trans hdaa)
  simpa [hsum, hhalf, hcarry] using decimal_correction ha hm (Bool.toNat_le cin)

/-- Settles O44: `add8` gives A, H and C after the addition, and `daa_of_decimal_sum` what DAA makes of them. -/
theorem decimalAddition : Obligations.DecimalAddition := by
  intro s t r m value decimal ha hm
  obtain ⟨hadda, -, hadca, -⟩ := add8 s (.imm m)
  refine ⟨fun ht hr => ?adda, fun ht hr => ?adca⟩
  case adda =>
    obtain rfl := Host.Outcome.next.inj (hadda.symm.trans ht)
    exact daa_of_decimal_sum false ha hm rfl rfl rfl hr
  case adca =>
    obtain rfl := Host.Outcome.next.inj (hadca.symm.trans ht)
    exact daa_of_decimal_sum s.cc.c ha hm rfl rfl rfl hr

end Sys2Proof.Machine
end

section
/-! SUPPORT. The flags a compare leaves, what the predicates of R450 say of them, and the branches that test them. -/

namespace Sys2Proof.Machine

/-- The flags of a compare of `a` with `m`: C is unsigned less, Z equal, N and V differ where signed less (R301, R401). -/
structure Compared {w : Nat} (a m : BitVec w) (cc : CC) : Prop where
  c : cc.c = decide (a.toNat < m.toNat)
  z : cc.z = decide (a = m)
  nv : (cc.n ^^ cc.v) = decide (a.toInt < m.toInt)

/-- The difference of the unsigned values, mod 2^w, is the difference of the words (R9). -/
theorem ofInt_sub_toNat {w : Nat} (a m : BitVec w) : BitVec.ofInt w ((a.toNat : Int) - m.toNat) = a - m := by
  apply BitVec.eq_of_toInt_eq
  rw [BitVec.toInt_ofInt, BitVec.toInt_sub, BitVec.toInt_eq_toNat_bmod a, BitVec.toInt_eq_toNat_bmod m]
  simp

/-- The sign of a difference is that of the exact one but where it overflows, and there it is the opposite (R62). -/
theorem msb_sub_xor_ssubOverflow {w : Nat} (a m : BitVec w) : ((a - m).msb ^^ a.ssubOverflow m) = a.slt m := by
  cases ho : a.ssubOverflow m
  case false =>
    have hd : (a - m).toInt = a.toInt - m.toInt := BitVec.toInt_sub_of_not_ssubOverflow (by simp [ho])
    rw [Bool.xor_false, BitVec.msb_eq_toInt, hd, BitVec.slt, decide_eq_decide]
    omega
  case true =>
    rw [BitVec.ssubOverflow_eq] at ho
    simp only [Bool.or_eq_true, Bool.and_eq_true, Bool.not_eq_true'] at ho
    rcases ho with ⟨⟨ha, hm⟩, hr⟩ | ⟨⟨ha, hm⟩, hr⟩
    · have hge : ¬ a.toInt < m.toInt :=
        ((BitVec.toInt_neg_of_msb_true hm).trans_le (BitVec.toInt_nonneg_of_msb_false ha)).not_gt
      simp [hr, BitVec.slt, hge]
    · have hlt : a.toInt < m.toInt :=
        (BitVec.toInt_neg_of_msb_true ha).trans_le (BitVec.toInt_nonneg_of_msb_false hm)
      simp [hr, BitVec.slt, hlt]

/-- Flags set by a difference are those of a compare (R301, R401). -/
theorem compared_of_sub {w : Nat} {a m : BitVec w} {cc : CC} (hn : cc.n = (a - m).msb) (hz : cc.z = decide (a = m))
    (hv : cc.v = a.ssubOverflow m) (hc : cc.c = decide (a.toNat < m.toNat)) : Compared a m cc :=
  ⟨hc, hz, by rw [hn, hv, msb_sub_xor_ssubOverflow, BitVec.slt]⟩

/-- CMPA leaves the flags of a compare (R301, R311). -/
theorem compared_of_cmpa {s t : State} {m : Byte} (h : exec (.cmpa (.imm m)) s = .next t) : Compared s.a m t.cc := by
  obtain ⟨-, -, -, -, hcmpa, -⟩ := subtractAndCompare8.2 s (.imm m)
  obtain rfl := Host.Outcome.next.inj (hcmpa.symm.trans h)
  have hm : (operand8 (.imm m) s).1 = m := rfl
  simp only [hm, Bool.toNat_false, Int.natCast_zero, Int.sub_zero, Nat.add_zero, ofInt_sub_toNat, sub_eq_zero]
  exact compared_of_sub (Flags.msb8 _).symm rfl ((Bool.decide_or _ _).trans (Bool.or_comm _ _)) rfl

/-- CMPX leaves the flags of a compare (R401, R406). -/
theorem compared_of_cmpx {s t : State} {m : Word} (h : exec (.cmpx (.imm m)) s = .next t) : Compared s.x m t.cc := by
  obtain ⟨-, -, -, hcmpx, -⟩ := arithmetic16 s (.imm m)
  obtain rfl := Host.Outcome.next.inj (hcmpx.symm.trans h)
  have hm : (operand16 (.imm m) s).1 = m := rfl
  have hx : (afterOperand16 (.imm m) s).x = s.x := BitVec.add_zero s.x
  simp only [hm, hx, ofInt_sub_toNat]
  exact compared_of_sub (Flags.msb16 _).symm rfl ((Bool.decide_or _ _).trans (Bool.or_comm _ _)) rfl

namespace Compared

variable {w : Nat} {a m : BitVec w} {cc : CC} (h : Compared a m cc)
include h

/-! What each predicate of R450 says of the two values. -/

theorem lo : Flags.lo cc = true ↔ a.toNat < m.toNat := by simp [Flags.lo, h.c]

theorem hs : Flags.hs cc = true ↔ m.toNat ≤ a.toNat := by simp [Flags.hs, h.c]

theorem eq : Flags.eq cc = true ↔ a = m := by simp [Flags.eq, h.z]

theorem ne : Flags.ne cc = true ↔ a ≠ m := by simp [Flags.ne, h.z]

theorem ls : Flags.ls cc = true ↔ a.toNat ≤ m.toNat := by
  simp [Flags.ls, h.c, h.z, ← BitVec.toNat_inj, Nat.le_iff_lt_or_eq]

theorem hi : Flags.hi cc = true ↔ m.toNat < a.toNat := by
  rw [← Nat.not_le, ← h.ls, Flags.hi, Bool.not_eq_true', Flags.ls, Bool.not_eq_true]

theorem lt : Flags.lt cc = true ↔ a.toInt < m.toInt := by simp [Flags.lt, h.nv]

theorem ge : Flags.ge cc = true ↔ m.toInt ≤ a.toInt := by simp [Flags.ge, h.nv]

theorem le : Flags.le cc = true ↔ a.toInt ≤ m.toInt := by
  simp [Flags.le, h.nv, h.z, ← BitVec.toInt_inj, Int.le_iff_lt_or_eq, or_comm]

theorem gt : Flags.gt cc = true ↔ m.toInt < a.toInt := by
  rw [← Int.not_le, ← h.le, Flags.gt, Bool.not_eq_true', Flags.le, Bool.not_eq_true]

end Compared

/-- What the statement says of a branch: it is taken exactly where `P` holds (R451). -/
def BranchesWhere (t : State) (o : Byte) (i : Instr) (P : Prop) : Prop :=
  ∃ r, exec i t = .next r ∧ (P → r.pc = t.pc + o.signExtend 16) ∧ (¬ P → r.pc = t.pc)

/-- A short branch goes to its target exactly where what its predicate says of the flags is met (R451). -/
theorem branchesWhere_of_iff {t : State} {o : Byte} {i : Instr} {taken : Bool} {P : Prop} (hP : taken = true ↔ P)
    (hi : exec i t = .next (shortBranch taken o t)) : BranchesWhere t o i P := by
  refine ⟨_, hi, fun hp => ?_, fun hp => ?_⟩
  · rw [shortBranch, if_pos (hP.mpr hp)]
    rfl
  · rw [shortBranch, if_neg (mt hP.mp hp)]
    rfl

/-- The ten comparing branches after a compare: the unsigned order by C and Z, the signed one by N, Z and V (R450). -/
theorem Compared.branches {w : Nat} {a m : BitVec w} {t : State} (h : Compared a m t.cc) (o : Byte) :
    BranchesWhere t o (.bhi o) (m.toNat < a.toNat) ∧ BranchesWhere t o (.bls o) (a.toNat ≤ m.toNat) ∧
    BranchesWhere t o (.bhs o) (m.toNat ≤ a.toNat) ∧ BranchesWhere t o (.blo o) (a.toNat < m.toNat) ∧
    BranchesWhere t o (.bne o) (a ≠ m) ∧ BranchesWhere t o (.beq o) (a = m) ∧
    BranchesWhere t o (.bge o) (m.toInt ≤ a.toInt) ∧ BranchesWhere t o (.blt o) (a.toInt < m.toInt) ∧
    BranchesWhere t o (.bgt o) (m.toInt < a.toInt) ∧ BranchesWhere t o (.ble o) (a.toInt ≤ m.toInt) :=
  ⟨branchesWhere_of_iff h.hi rfl, branchesWhere_of_iff h.ls rfl, branchesWhere_of_iff h.hs rfl,
    branchesWhere_of_iff h.lo rfl, branchesWhere_of_iff h.ne rfl, branchesWhere_of_iff h.eq rfl,
    branchesWhere_of_iff h.ge rfl, branchesWhere_of_iff h.lt rfl, branchesWhere_of_iff h.gt rfl,
    branchesWhere_of_iff h.le rfl⟩

/-- Settles O51: CMPA and CMPX leave the flags of a compare, and after one the branches are as `Compared.branches` says. -/
theorem branchesAfterCompare : Obligations.BranchesAfterCompare :=
  fun _ _ o => ⟨fun _ h => (compared_of_cmpa h).branches o, fun _ h => (compared_of_cmpx h).branches o⟩

end Sys2Proof.Machine
end

section
/-! SUPPORT. The unary operations in the terms of the spec's text: what each law makes of a byte as a number, and the
accumulator and memory forms by what their law gives. -/

namespace Sys2Proof.Machine

/-- Joined bits are a sum: the upper ones count by the width of the lower. -/
theorem toNat_append_eq_add {k n : Nat} (hi : BitVec k) (lo : BitVec n) :
    (hi ++ lo).toNat = hi.toNat * 2 ^ n + lo.toNat := by
  rw [BitVec.toNat_append, Nat.shiftLeft_eq, ← Nat.mul_comm (2 ^ n), ← Nat.two_pow_add_eq_or_of_lt lo.isLt]

namespace Flags

/-- `Op_NEG` subtracts from zero, mod 256 (R351). -/
theorem neg_eq (a : Byte) (cc : CC) :
    let r := BitVec.ofNat 8 (256 - a.toNat)
    neg a cc = (r, { cc with
      n := r.getLsbD 7, z := decide (r = 0), v := decide (a = 0x80), c := decide (a ≠ 0) }) := by
  intro r
  have hr : BitVec.ofInt 8 (0 - (a.toNat : Int)) = r := by
    apply BitVec.eq_of_toNat_eq
    rw [BitVec.toNat_ofInt, BitVec.toNat_ofNat]
    omega
  have hc : (a != 0) = decide (a ≠ 0) := (decide_not (p := a = 0)).symm
  simp only [neg, nz8_eq, hr, hc, BEq.beq]

/-- `Op_COM` takes the complement to 255 (R355). -/
theorem com_eq (a : Byte) (cc : CC) :
    let r := BitVec.ofNat 8 (255 - a.toNat)
    com a cc = (r, { cc with n := r.getLsbD 7, z := decide (r = 0), v := false, c := true }) := by
  intro r
  have hr : ~~~a = r := by
    apply BitVec.eq_of_toNat_eq
    rw [BitVec.toNat_not, BitVec.toNat_ofNat]
    omega
  simp only [com, nz8_eq, hr]

/-- `Op_LSR` halves the unsigned value, so that N is clear (R359). -/
theorem lsr_eq (a : Byte) (cc : CC) :
    let r := BitVec.ofNat 8 (a.toNat / 2)
    lsr a cc = (r, { cc with n := false, z := decide (r = 0), c := a.getLsbD 0 }) := by
  intro r
  have hr : a >>> 1 = r := by
    apply BitVec.eq_of_toNat_eq
    rw [BitVec.toNat_ushiftRight, Nat.shiftRight_eq_div_pow, pow_one, BitVec.toNat_ofNat]
    omega
  simp only [lsr, hr, BEq.beq]

/-- `Op_ROR` halves the unsigned value with C as bit 7 (R363). -/
theorem ror_eq (a : Byte) (cc : CC) :
    let r := BitVec.ofNat 8 (cc.c.toNat * 128 + a.toNat / 2)
    ror a cc = (r, { cc with n := r.getLsbD 7, z := decide (r = 0), c := a.getLsbD 0 }) := by
  intro r
  have hr : BitVec.ofBool cc.c ++ a.extractLsb' 1 7 = r := by
    apply BitVec.eq_of_toNat_eq
    rw [toNat_append_eq_add, BitVec.toNat_ofBool, BitVec.extractLsb'_toNat, BitVec.toNat_ofNat]
    simp only [Nat.shiftRight_eq_div_pow]
    have hc := Bool.toNat_le cc.c
    omega
  simp only [ror, nz8_eq, hr]

/-- `Op_ASR` halves the signed value, rounding down (R367). -/
theorem asr_eq (a : Byte) (cc : CC) :
    let r := BitVec.ofInt 8 (a.toInt / 2)
    asr a cc = (r, { cc with n := r.getLsbD 7, z := decide (r = 0), c := a.getLsbD 0 }) := by
  intro r
  have hr : (a &&& 0x80) ||| (a >>> 1) = r := by
    revert a
    decide
  simp only [asr, nz8_eq, hr]

/-- `Op_ASL` doubles mod 256, V set where the sign changes (R371). -/
theorem asl_eq (a : Byte) (cc : CC) :
    let r := BitVec.ofNat 8 (a.toNat * 2)
    asl a cc = (r, { cc with
      n := r.getLsbD 7, z := decide (r = 0), v := a.getLsbD 7 != a.getLsbD 6, c := a.getLsbD 7 }) := by
  intro r
  have hr : a <<< 1 = r := by
    apply BitVec.eq_of_toNat_eq
    rw [BitVec.toNat_shiftLeft, Nat.shiftLeft_eq, pow_one, BitVec.toNat_ofNat]
  simp only [asl, nz8_eq, hr, Bool.xor]

/-- `Op_ROL` doubles mod 256 with C as bit 0, V set where the sign changes (R375). -/
theorem rol_eq (a : Byte) (cc : CC) :
    let r := BitVec.ofNat 8 (a.toNat * 2 + cc.c.toNat)
    rol a cc = (r, { cc with
      n := r.getLsbD 7, z := decide (r = 0), v := a.getLsbD 7 != a.getLsbD 6, c := a.getLsbD 7 }) := by
  intro r
  have hr : a.extractLsb' 0 7 ++ BitVec.ofBool cc.c = r := by
    apply BitVec.eq_of_toNat_eq
    rw [toNat_append_eq_add, BitVec.toNat_ofBool, BitVec.extractLsb'_toNat, BitVec.toNat_ofNat]
    simp only [Nat.shiftRight_zero]
    have hc := Bool.toNat_le cc.c
    omega
  simp only [rol, nz8_eq, hr, Bool.xor]

/-- `Op_DEC` subtracts one mod 256 (R379). -/
theorem dec_eq (a : Byte) (cc : CC) :
    let r := BitVec.ofInt 8 (a.toNat - 1)
    dec a cc = (r, { cc with n := r.getLsbD 7, z := decide (r = 0), v := decide (a = 0x80) }) := by
  intro r
  have hr : a - 1 = r := (ofInt_sub_toNat a 1).symm
  simp only [dec, nz8_eq, hr, BEq.beq]

/-- `Op_INC` adds one mod 256 (R383). -/
theorem inc_eq (a : Byte) (cc : CC) :
    let r := BitVec.ofNat 8 (a.toNat + 1)
    inc a cc = (r, { cc with n := r.getLsbD 7, z := decide (r = 0), v := decide (a = 0x7F) }) := by
  intro r
  have hr : a + 1 = r := by
    apply BitVec.eq_of_toNat_eq
    rw [BitVec.toNat_add, BitVec.toNat_ofNat]
    rfl
  simp only [inc, nz8_eq, hr, BEq.beq]

end Flags

/-! ### The accumulator forms -/

section
variable (get : State → Byte) (set : State → Byte → State) (s : State)
  {law : Byte → CC → Byte × CC} {v : Byte} {cc : CC}

/-- An accumulator form, by what its law gives of the register and the flags before (R350). -/
theorem unaryAcc_of_law (hlaw : law (get s) s.cc = (v, cc)) : unaryAcc get set law s = (set (s.setCC cc) v).tick 2 := by
  simp only [unaryAcc, hlaw]

/-- An accumulator form after H is drawn, by what its law gives of the register and the flags with that H (R351, R367,
R371). -/
theorem unaryAcc_drawH_of_law (hget : ∀ c, get ((drawFlag s.cc.h s).2.setCC c) = get s)
    (hset : ∀ t n, (set t v).tick n = set (t.tick n) v)
    (hlaw : law (get s) { s.cc with h := (drawFlag s.cc.h s).1 } = (v, cc)) :
    unaryAcc get set law (drawH s) = set { (drawFlag s.cc.h s).2 with cc := cc, ticks := s.ticks + 2 } v := by
  obtain ⟨-, -, ht⟩ := drawFlag_keeps s.cc.h s
  have hH : drawH s = (drawFlag s.cc.h s).2.setCC { s.cc with h := (drawFlag s.cc.h s).1 } := drawH_eq s
  simp only [unaryAcc, hH, hget, State.setCC_cc, hlaw, hset]
  rw [← ht]
  rfl

/-- TST of an accumulator: N and Z of it, V cleared (R387). -/
theorem testAcc_eq : testAcc get s =
    (s.setCC { s.cc with n := (get s).getLsbD 7, z := decide (get s = 0), v := false }).tick 2 := by
  simp only [testAcc, Flags.tst, Flags.move8_eq]

end

/-- Settles O46: each instruction is a law applied to A or B, and each law is what the statement says; drawing H for
NEG, ASR and ASL keeps A and B. -/
theorem unaryOnAccumulators : Obligations.UnaryOnAccumulators := by
  intro s h r n nz neg negCC com comCC lsr lsrCC ror rorCC asr asrCC asl aslCC rol rolCC dec decCC inc incCC clrCC
  obtain ⟨ha, hb, -⟩ := drawFlag_keeps s.cc.h s
  have hneg (v : Byte) : Flags.neg v { s.cc with h := h } = (neg v, negCC v) := Flags.neg_eq v _
  have hcom (v : Byte) : Flags.com v s.cc = (com v, comCC v) := Flags.com_eq v s.cc
  have hlsr (v : Byte) : Flags.lsr v s.cc = (lsr v, lsrCC v) := Flags.lsr_eq v s.cc
  have hror (v : Byte) : Flags.ror v s.cc = (ror v, rorCC v) := Flags.ror_eq v s.cc
  have hasr (v : Byte) : Flags.asr v { s.cc with h := h } = (asr v, asrCC v) := Flags.asr_eq v _
  have hasl (v : Byte) : Flags.asl v { s.cc with h := h } = (asl v, aslCC v) := Flags.asl_eq v _
  have hrol (v : Byte) : Flags.rol v s.cc = (rol v, rolCC v) := Flags.rol_eq v s.cc
  have hdec (v : Byte) : Flags.dec v s.cc = (dec v, decCC v) := Flags.dec_eq v s.cc
  have hinc (v : Byte) : Flags.inc v s.cc = (inc v, incCC v) := Flags.inc_eq v s.cc
  refine ⟨⟨?nega, ?coma, ?lsra, ?rora, ?asra, ?asla, ?rola, ?deca, ?inca, ?tsta, ?clra⟩,
    ?negb, ?comb, ?lsrb, ?rorb, ?asrb, ?aslb, ?rolb, ?decb, ?incb, ?tstb, ?clrb⟩
  case nega =>
    exact congrArg Host.Outcome.next
      (unaryAcc_drawH_of_law State.a State.setA s (fun _ => ha) (fun _ _ => rfl) (hneg s.a))
  case coma => exact congrArg Host.Outcome.next (unaryAcc_of_law State.a State.setA s (hcom s.a))
  case lsra => exact congrArg Host.Outcome.next (unaryAcc_of_law State.a State.setA s (hlsr s.a))
  case rora => exact congrArg Host.Outcome.next (unaryAcc_of_law State.a State.setA s (hror s.a))
  case asra =>
    exact congrArg Host.Outcome.next
      (unaryAcc_drawH_of_law State.a State.setA s (fun _ => ha) (fun _ _ => rfl) (hasr s.a))
  case asla =>
    exact congrArg Host.Outcome.next
      (unaryAcc_drawH_of_law State.a State.setA s (fun _ => ha) (fun _ _ => rfl) (hasl s.a))
  case rola => exact congrArg Host.Outcome.next (unaryAcc_of_law State.a State.setA s (hrol s.a))
  case deca => exact congrArg Host.Outcome.next (unaryAcc_of_law State.a State.setA s (hdec s.a))
  case inca => exact congrArg Host.Outcome.next (unaryAcc_of_law State.a State.setA s (hinc s.a))
  case tsta => exact congrArg Host.Outcome.next (testAcc_eq State.a s)
  case clra => rfl
  case negb =>
    exact congrArg Host.Outcome.next
      (unaryAcc_drawH_of_law State.b State.setB s (fun _ => hb) (fun _ _ => rfl) (hneg s.b))
  case comb => exact congrArg Host.Outcome.next (unaryAcc_of_law State.b State.setB s (hcom s.b))
  case lsrb => exact congrArg Host.Outcome.next (unaryAcc_of_law State.b State.setB s (hlsr s.b))
  case rorb => exact congrArg Host.Outcome.next (unaryAcc_of_law State.b State.setB s (hror s.b))
  case asrb =>
    exact congrArg Host.Outcome.next
      (unaryAcc_drawH_of_law State.b State.setB s (fun _ => hb) (fun _ _ => rfl) (hasr s.b))
  case aslb =>
    exact congrArg Host.Outcome.next
      (unaryAcc_drawH_of_law State.b State.setB s (fun _ => hb) (fun _ _ => rfl) (hasl s.b))
  case rolb => exact congrArg Host.Outcome.next (unaryAcc_of_law State.b State.setB s (hrol s.b))
  case decb => exact congrArg Host.Outcome.next (unaryAcc_of_law State.b State.setB s (hdec s.b))
  case incb => exact congrArg Host.Outcome.next (unaryAcc_of_law State.b State.setB s (hinc s.b))
  case tstb => exact congrArg Host.Outcome.next (testAcc_eq State.b s)
  case clrb => rfl

/-! ### The memory forms -/

/-- The flags and the tick sum may be set before a byte write or after it (R111). -/
theorem tick_writeByte_setCC (va : Word) (v : Byte) (s : State) (cc : CC) (n : Nat) :
    (writeByte va v (s.setCC cc)).tick n = { writeByte va v s with cc := cc, ticks := s.ticks + n } := by
  have hcc : writeByte va v (s.setCC cc) = onto (s.setCC cc) (writeByte va v s) := writeByte_onto va v (s.setCC cc) s
  rw [hcc, writeByte_frame va v s]
  rfl

section
variable {law : Byte → CC → Byte × CC} {m : MemOperand} {s : State} {v : Byte} {cc : CC}

/-- A memory form, by what its law gives of the byte read and the flags before (R350). -/
theorem unaryMem_of_law (hlaw : law (operand8 (.mem m) s).1 s.cc = (v, cc)) :
    unaryMem law m s = { writeByte (effectiveAddress m s).1 v (afterOperand8 (.mem m) s) with
      cc := cc, ticks := s.ticks + memTicks 6 m } := by
  have hread : law (unaryOperand m s) s.cc = (v, cc) := hlaw
  simp only [unaryMem_eq, hread, tick_writeByte_setCC]
  rfl

/-- A memory form that draws H, by what its law gives of the byte read and the flags with that H (R351, R367, R371). -/
theorem unaryMemH_of_law
    (hlaw : law (operand8 (.mem m) s).1 { s.cc with h := (drawFlag s.cc.h (afterOperand8 (.mem m) s)).1 } = (v, cc)) :
    unaryMemH law m s =
      { writeByte (effectiveAddress m s).1 v (drawFlag s.cc.h (afterOperand8 (.mem m) s)).2 with
        cc := cc, ticks := s.ticks + memTicks 6 m } := by
  obtain ⟨-, -, ht⟩ := drawFlag_afterOperand8 s.cc.h (.mem m) s
  have hread : law (unaryOperand m s) (drawnFlags m s) = (v, cc) := hlaw
  simp only [unaryMemH_eq, hread, tick_writeByte_setCC, ht]

/-- TST of memory: N and Z of the byte read, V cleared, nothing written (R387, R390). -/
theorem testMem_state :
    let v := (operand8 (.mem m) s).1
    testMem m s = { afterOperand8 (.mem m) s with
      cc := { s.cc with n := v.getLsbD 7, z := decide (v = 0), v := false }, ticks := s.ticks + memTicks 6 m } := by
  simp only [testMem_eq, Flags.tst, Flags.move8_eq]
  rfl

/-- CLR of memory: 0x00 written, nothing read (R391, R394). -/
theorem clearMem_state : clearMem m s = { writeByte (effectiveAddress m s).1 0 (afterAddress m s) with
    cc := Flags.clr s.cc, ticks := s.ticks + memTicks 6 m } := by
  simp only [clearMem_eq, tick_writeByte_setCC]
  rfl

end

/-- Settles O47: each instruction is a law applied to the byte read, as on the accumulators, and its result written; the
flags set before the write are those after it. -/
theorem unaryOnMemory : Obligations.UnaryOnMemory := by
  intro s m ea v q h r n nz neg com lsr ror asr asl rol dec inc
  refine ⟨?neg, ?com, ?lsr, ?ror, ?asr, ?asl, ?rol, ?dec, ?inc, ?tst, ?clr⟩
  case neg => exact congrArg Host.Outcome.next (unaryMemH_of_law (Flags.neg_eq v { s.cc with h := h }) :)
  case com => exact congrArg Host.Outcome.next (unaryMem_of_law (Flags.com_eq v s.cc) :)
  case lsr => exact congrArg Host.Outcome.next (unaryMem_of_law (Flags.lsr_eq v s.cc) :)
  case ror => exact congrArg Host.Outcome.next (unaryMem_of_law (Flags.ror_eq v s.cc) :)
  case asr => exact congrArg Host.Outcome.next (unaryMemH_of_law (Flags.asr_eq v { s.cc with h := h }) :)
  case asl => exact congrArg Host.Outcome.next (unaryMemH_of_law (Flags.asl_eq v { s.cc with h := h }) :)
  case rol => exact congrArg Host.Outcome.next (unaryMem_of_law (Flags.rol_eq v s.cc) :)
  case dec => exact congrArg Host.Outcome.next (unaryMem_of_law (Flags.dec_eq v s.cc) :)
  case inc => exact congrArg Host.Outcome.next (unaryMem_of_law (Flags.inc_eq v s.cc) :)
  case tst => exact congrArg Host.Outcome.next testMem_state
  case clr => exact congrArg Host.Outcome.next clearMem_state

end Sys2Proof.Machine
end

section
/-! SUPPORT. Branches, jumps and subroutines in the terms of the spec's text: the predicates as conditions on the flags,
the two branch templates, and what a call and a return do (R450-R452, R485-R489). -/

namespace Sys2Proof.Machine

namespace Flags

variable (cc : CC)

/-! The predicates of R450 as conditions on the flags. -/

theorem hi_eq : hi cc = decide (cc.c = false ∧ cc.z = false) := by simp [hi]

theorem ls_eq : ls cc = decide (cc.c = true ∨ cc.z = true) := by simp [ls]

theorem hs_eq : hs cc = decide (cc.c = false) := Bool.decide_eq_false.symm

theorem lo_eq : lo cc = decide (cc.c = true) := Bool.decide_eq_true.symm

theorem ne_eq : ne cc = decide (cc.z = false) := Bool.decide_eq_false.symm

theorem eq_eq : eq cc = decide (cc.z = true) := Bool.decide_eq_true.symm

theorem vc_eq : vc cc = decide (cc.v = false) := Bool.decide_eq_false.symm

theorem vs_eq : vs cc = decide (cc.v = true) := Bool.decide_eq_true.symm

theorem pl_eq : pl cc = decide (cc.n = false) := Bool.decide_eq_false.symm

theorem mi_eq : mi cc = decide (cc.n = true) := Bool.decide_eq_true.symm

theorem lt_eq : lt cc = decide (cc.n ≠ cc.v) := (Bool.decide_coe _).symm.trans (decide_eq_decide.mpr Bool.xor_iff_ne)

theorem ge_eq : ge cc = decide (cc.n = cc.v) := by
  have h : ge cc = !lt cc := rfl
  rw [h, lt_eq, ← decide_not, decide_eq_decide, not_ne_iff]

theorem le_eq : le cc = decide (cc.z = true ∨ cc.n ≠ cc.v) := by
  have h : le cc = (cc.z || lt cc) := rfl
  rw [h, lt_eq, Bool.decide_or, Bool.decide_eq_true]

theorem gt_eq : gt cc = decide (cc.z = false ∧ cc.n = cc.v) := by
  have h : gt cc = !le cc := rfl
  rw [h, le_eq, ← decide_not, decide_eq_decide, not_or, Bool.not_eq_true, not_ne_iff]

end Flags

/-! ### Branches -/

section
variable {taken holds : Bool} (s : State)

/-- The short-branch template, its displacement a signed number and its condition as R450 words it (R451). -/
theorem shortBranch_of_eq (o : Byte) (h : taken = holds) : shortBranch taken o s = { s with
    pc := if holds then BitVec.ofInt 16 (s.pc.toNat + o.toInt) else s.pc, ticks := s.ticks + 3 } := by
  subst h
  rw [← add_sext8]
  cases taken <;> rfl

/-- The long-branch template, its displacement a signed number and its condition as R450 words it (R452). -/
theorem longBranch_of_eq (o : Word) (h : taken = holds) : longBranch taken o s = { s with
    pc := if holds then BitVec.ofInt 16 (s.pc.toNat + o.toInt) else s.pc
    ticks := s.ticks + if holds then 6 else 5 } := by
  subst h
  rw [← add_word]
  cases taken <;> rfl

end

/-- Settles O49: each instruction is `shortBranch` with its predicate, and the predicate is the statement's condition. -/
theorem shortBranches : Obligations.ShortBranches := by
  intro s o branch cc
  have short {i : Instr} {taken holds : Bool} (hi : exec i s = .next (shortBranch taken o s)) (h : taken = holds) :
      exec i s = branch holds := hi.trans (congrArg Host.Outcome.next (shortBranch_of_eq s o h))
  exact ⟨short rfl rfl, short rfl rfl, short rfl (Flags.hi_eq cc), short rfl (Flags.ls_eq cc),
    short rfl (Flags.hs_eq cc), short rfl (Flags.lo_eq cc), short rfl (Flags.ne_eq cc), short rfl (Flags.eq_eq cc),
    short rfl (Flags.vc_eq cc), short rfl (Flags.vs_eq cc), short rfl (Flags.pl_eq cc), short rfl (Flags.mi_eq cc),
    short rfl (Flags.ge_eq cc), short rfl (Flags.lt_eq cc), short rfl (Flags.gt_eq cc), short rfl (Flags.le_eq cc)⟩

/-- Settles O50: each conditional instruction is `longBranch` with its predicate, and the predicate is the statement's
condition; LBRA adds its displacement without the surcharge. -/
theorem longBranches : Obligations.LongBranches := by
  intro s o branch cc
  have long {i : Instr} {taken holds : Bool} (hi : exec i s = .next (longBranch taken o s)) (h : taken = holds) :
      exec i s = branch holds := hi.trans (congrArg Host.Outcome.next (longBranch_of_eq s o h))
  have lbra : exec (.lbra o) s = .next
      { s with pc := BitVec.ofInt 16 (s.pc.toNat + o.toInt), ticks := s.ticks + 5 } := by
    rw [← add_word]
    rfl
  exact ⟨lbra, long rfl rfl, long rfl (Flags.hi_eq cc), long rfl (Flags.ls_eq cc),
    long rfl (Flags.hs_eq cc), long rfl (Flags.lo_eq cc), long rfl (Flags.ne_eq cc), long rfl (Flags.eq_eq cc),
    long rfl (Flags.vc_eq cc), long rfl (Flags.vs_eq cc), long rfl (Flags.pl_eq cc), long rfl (Flags.mi_eq cc),
    long rfl (Flags.ge_eq cc), long rfl (Flags.lt_eq cc), long rfl (Flags.gt_eq cc), long rfl (Flags.le_eq cc)⟩

/-! ### Calls, jumps and return -/

/-- What the statement says of a call: S two bytes down, the return address stored there, PC at the target. -/
def Called (target : Word) (n : Nat) (s t : State) : Prop :=
  t = { storeFrame (busFrame s t) t with sp := s.sp - 2, pc := target, ticks := s.ticks + n } ∧
  storesRun (s.sp - 2) [hiByte s.pc, loByte s.pc] s t

/-- A call is one word pushed and a jump (R485, R486, R488, R500). -/
theorem called_call (target : Word) (n : Nat) (s : State) : Called target n s ((call target s).tick n) := by
  obtain ⟨m, hm, hrun⟩ := pushed_push16 s.pc (pushed_nil .s s) (by simp)
  rw [call, hm]
  exact ⟨rfl, storesRun_of_eq (storesRun_of_runStored hrun) rfl⟩

/-- A word pulled: the word at the stack pointer, which moves two bytes up (R501). -/
theorem pull16_eq (k : StackPtr) (s : State) : pull16 k s =
    ((readWord (s.stack k) s).1, (busFrame s (readWord (s.stack k) s).2).setStack k (s.stack k + 2)) := by
  refine Prod.ext rfl ((pull16_frame k s).trans ?_)
  cases k <;> rfl

section
variable (m : MemOperand) (s : State)

/-- JSR calls from the state the resolver left, its address complete before the push (R229, R488). -/
theorem exec_jsr : exec (.jsr m) s =
    .next ((call (effectiveAddress m s).1 (afterAddress m s)).tick (memTicks 7 m)) := by
  rw [← effectiveAddress_state]
  rfl

/-- JMP sets PC in the state the resolver left (R229, R487). -/
theorem exec_jmp : exec (.jmp m) s =
    .next (((afterAddress m s).setPc (effectiveAddress m s).1).tick (memTicks 3 m)) := by
  rw [← effectiveAddress_state]
  rfl

end

/-- RTS pulls PC from S (R489). -/
theorem exec_rts (s : State) : exec .rts s = .next { busFrame s (readWord s.sp s).2 with
    pc := (readWord s.sp s).1, sp := s.sp + 2, ticks := s.ticks + 5 } := by
  have h : exec .rts s = .next (((pull16 .s s).2.setPc (pull16 .s s).1).tick 5) := rfl
  rw [h, pull16_eq]
  rfl

/-- Settles O52: the three calls are `called_call` at their targets, and `exec_jmp` and `exec_rts` are the last clauses. -/
theorem callsJumpsAndReturn : Obligations.CallsJumpsAndReturn := by
  intro s
  refine ⟨fun o => ?bsr, fun o => ?lbsr, fun m => ?jsr, fun m => ?jmp, ?rts⟩
  case bsr =>
    rw [← add_sext8]
    exact ⟨_, rfl, called_call (s.pc + sext8 o) 7 s⟩
  case lbsr =>
    rw [← add_word]
    exact ⟨_, rfl, called_call (s.pc + o) 9 s⟩
  case jsr => exact ⟨_, exec_jsr m s, called_call (effectiveAddress m s).1 (memTicks 7 m) (afterAddress m s)⟩
  case jmp => exact exec_jmp m s
  case rts => exact exec_rts s

end Sys2Proof.Machine
end

section
/-! SUPPORT. The service point stage by stage outside a CWAI wait: each stage either pushes one frame below S or leaves the
state alone, and stages after one another put their frames below one another (R612-R623, R628). -/

namespace Sys2Proof.Machine

/-- Where `bytes` fit in RAM below the S of `s`, `r` is `t` but for them there and S down by their number. -/
def Pushes (s : State) (bytes : List Byte) (t r : State) : Prop :=
  s.ramRun (s.sp - BitVec.ofNat 16 bytes.length) bytes.length = true →
    r = { t with ram := r.ram, sp := s.sp - BitVec.ofNat 16 bytes.length } ∧ framesBelow s bytes r

theorem pushes_refl (s : State) : Pushes s [] s s := by
  have e : s.sp - BitVec.ofNat 16 0 = s.sp := BitVec.sub_zero _
  refine fun _ => ⟨?_, rfl, e.symm, rfl, fun _ _ => rfl⟩
  rw [List.length_nil, e]

/-- The stage `f` pushes `frame`, of at most twelve bytes, and makes `u` of `t` but for it, whatever RAM and S are. -/
def StagePushes (f : State → State) (t : State) (frame : List Byte) (u : State) : Prop :=
  frame.length ≤ 12 ∧ ∀ ram sp,
    Pushes { t with ram := ram, sp := sp } frame { u with ram := ram, sp := sp } (f { t with ram := ram, sp := sp })

/-- A stage after `bytes` were pushed puts its own frame below them. -/
theorem Pushes.stage {s t r u : State} {bytes frame : List Byte} {f : State → State} (h : Pushes s bytes t r)
    (hf : StagePushes f t frame u) (hn : bytes.length < 8180) : Pushes s (frame ++ bytes) u (f r) := by
  intro hrun
  obtain ⟨hlen, hf⟩ := hf
  have hbase : s.sp - BitVec.ofNat 16 (frame ++ bytes).length =
      s.sp - BitVec.ofNat 16 bytes.length - BitVec.ofNat 16 frame.length := by
    rw [List.length_append, BitVec.ofNat_add, BitVec.add_comm, BitVec.sub_sub]
  rw [hbase, List.length_append, ramRun_add, BitVec.sub_add_cancel, Bool.and_eq_true] at hrun
  obtain ⟨hframe, hbytes⟩ := hrun
  obtain ⟨hr, hbelow⟩ := h hbytes
  have hmmu : r.mmu = s.mmu := hbelow.1
  have hsp : r.sp = s.sp - BitVec.ofNat 16 bytes.length := hbelow.2.1
  have hstage := hf r.ram (s.sp - BitVec.ofNat 16 bytes.length)
  rw [← hr] at hstage
  obtain ⟨hq, hbelow2⟩ := hstage (by rw [hsp, ramRun_mmu hmmu]; exact hframe)
  refine ⟨?_, framesBelow_append hbelow hbelow2 (by omega)⟩
  rw [hbase, ← hsp]
  exact hq

/-- What IRQ service makes of a state but for its frame (R619). -/
def afterIrq (s : State) : State :=
  { s with cc := { s.cc with e := true, i := true }, pc := s.vector 0xFFF8, irqLatch := false }

/-- What FIRQ service makes of a state but for its frame (R620). -/
def afterFirq (s : State) : State :=
  { s with cc := { s.cc with e := false, i := true, f := true }, pc := s.vector 0xFFF6, firqLatch := false }

/-- What NMI service makes of a state but for its frame (R621). -/
def afterNmi (s : State) : State :=
  { s with cc := { s.cc with e := true, i := true, f := true }, pc := s.vector 0xFFFC, nmiLatch := false }

section
variable {t : State}

theorem irqStage_pushes (hc : t.cwaiWait = false) (hl : t.irqLatch = true) (hm : t.cc.i = false) :
    StagePushes irqStage t (entireBytes { t.cc with e := true } t) (afterIrq t) := by
  refine ⟨le_rfl, fun ram sp => ?_⟩
  rw [irqStage_on (s := { t with ram := ram, sp := sp }) hl hm]
  exact serviceIrq_ram hc

theorem firqStage_pushes (hc : t.cwaiWait = false) (hl : t.firqLatch = true) (hm : t.cc.f = false) :
    StagePushes firqStage t (reducedBytes { t.cc with e := false } t) (afterFirq t) := by
  refine ⟨by simp, fun ram sp => ?_⟩
  rw [firqStage_on (s := { t with ram := ram, sp := sp }) hl hm]
  exact serviceFirq_ram hc

theorem nmiStage_pushes (hc : t.cwaiWait = false) (hl : t.nmiLatch = true) :
    StagePushes nmiStage t (entireBytes { t.cc with e := true } t) (afterNmi t) := by
  refine ⟨le_rfl, fun ram sp => ?_⟩
  rw [nmiStage_on (s := { t with ram := ram, sp := sp }) hl]
  exact serviceNmi_ram hc

theorem irqStage_idle (h : t.irqLatch = true → t.cc.i = true) : StagePushes irqStage t [] t := by
  refine ⟨Nat.zero_le _, fun ram sp => ?_⟩
  rw [irqStage_off (s := { t with ram := ram, sp := sp }) h]
  exact pushes_refl _

theorem firqStage_idle (h : t.firqLatch = true → t.cc.f = true) : StagePushes firqStage t [] t := by
  refine ⟨Nat.zero_le _, fun ram sp => ?_⟩
  rw [firqStage_off (s := { t with ram := ram, sp := sp }) h]
  exact pushes_refl _

theorem nmiStage_idle (h : t.nmiLatch = false) : StagePushes nmiStage t [] t := by
  refine ⟨Nat.zero_le _, fun ram sp => ?_⟩
  rw [nmiStage_off (s := { t with ram := ram, sp := sp }) h]
  exact pushes_refl _

end

/-- The service point of a state in which a latch is set: a SYNC wait ends, and the three stages push one below another
(R618, R627). -/
theorem servicePushes_stages {s t u v : State} {irq firq nmi : List Byte}
    (hl : (s.irqLatch || s.firqLatch || s.nmiLatch) = true)
    (h1 : StagePushes irqStage { s with syncWait := false } irq t) (h2 : StagePushes firqStage t firq u)
    (h3 : StagePushes nmiStage u nmi v) : servicePushes s (nmi ++ firq ++ irq) v := by
  obtain ⟨r, hr⟩ : ∃ r, r = { s with syncWait := false } := ⟨_, rfl⟩
  have hmmu : r.mmu = s.mmu := by rw [hr]; rfl
  have hram : r.ram = s.ram := by rw [hr]
  have hsp : r.sp = s.sp := by rw [hr]
  have hservice : service s = nmiStage (firqStage (irqStage r)) := by
    rw [service_stages, releaseSync_eq, hl, hr, Bool.not_true, Bool.and_false]
  rw [← hr] at h1
  have hirq : Pushes r irq t (irqStage r) := by
    have h := (pushes_refl r).stage h1 (by simp)
    rwa [List.append_nil] at h
  have hlen1 := h1.1
  have hlen2 := h2.1
  have h := (hirq.stage h2 (by omega)).stage h3 (by rw [List.length_append]; omega)
  rw [← List.append_assoc, ← hservice] at h
  intro hrun
  obtain ⟨e, -, -, hbytes, hkept⟩ := h (by rw [hsp, ramRun_mmu hmmu]; exact hrun)
  rw [hsp] at e hbytes hkept
  refine ⟨e, hbytes, fun pa hpa => ?_⟩
  rw [hkept pa (by rw [reaches_mmu hmmu]; exact hpa), hram]

/-- Settles O15: the IRQ stage pushes its frame, the others are idle. -/
theorem irqService : Obligations.IrqService := by
  intro s hc hi him hf hn
  have h := servicePushes_stages (s := s) (by rw [hi]; rfl) (irqStage_pushes hc hi him)
    (firqStage_idle hf) (nmiStage_idle hn)
  exact h

/-- Settles O17: the NMI stage pushes its frame, the others are idle. -/
theorem nmiService : Obligations.NmiService := by
  intro s hc hn hi hf
  have h := servicePushes_stages (s := s) (by rw [hn, Bool.or_true]) (irqStage_idle hi)
    (firqStage_idle hf) (nmiStage_pushes hc hn)
  exact h

/-- Settles O19: the stages whose latch is set and unmasked push their frames one below another, the others are idle. -/
theorem allThreeServicedInOrder : Obligations.AllThreeServicedInOrder := by
  intro s hc
  refine ⟨fun hi him hf hfm hn => ?all, fun hi him hf hfm hn => ?irqFirq, fun hi him hf hn => ?irqNmi,
    fun hf hfm hi hn => ?firqNmi⟩
  case all =>
    have h := servicePushes_stages (s := s) (by rw [hi]; rfl) (irqStage_pushes hc hi him)
      (firqStage_pushes hc hf hfm) (nmiStage_pushes hc hn)
    exact h
  case irqFirq =>
    have h := servicePushes_stages (s := s) (by rw [hi]; rfl) (irqStage_pushes hc hi him)
      (firqStage_pushes hc hf hfm) (nmiStage_idle hn)
    exact h
  case irqNmi =>
    have h := servicePushes_stages (s := s) (by rw [hi]; rfl) (irqStage_pushes hc hi him)
      (firqStage_idle hf) (nmiStage_pushes hc hn)
    exact h
  case firqNmi =>
    have h := servicePushes_stages (s := s) (by rw [hn, Bool.or_true]) (irqStage_idle hi)
      (firqStage_pushes hc hf hfm) (nmiStage_pushes hc hn)
    exact h

end Sys2Proof.Machine
end

section
/-! SUPPORT. Pushes, software interrupts and transfers: each is what its operation's law says, with the tick count of the
instruction (R500-R511, R551-R553). -/

namespace Sys2Proof.Machine

/-- A push changes the memory, the MMU and the bus, and of the registers its stack pointer alone (R500, R503). -/
theorem pushMask_frame (k : StackPtr) (m : Byte) (s : State) : pushMask k m s =
    (storeFrame (busFrame s (pushMask k m s)) (pushMask k m s)).setStack k
      (s.stack k - BitVec.ofNat 16 (bytesMoved m)) := by
  obtain ⟨-, r, hr, -⟩ := pushMask_spec k m s
  rw [hr]
  cases k <;> rfl

theorem pushedBytes_length (k : StackPtr) (m : Byte) (s : State) : (pushedBytes k m s).length = bytesMoved m :=
  (pushMask_spec k m s).1

/-- The bytes of a mask are stored below the stack pointer. -/
theorem pushMask_stores (k : StackPtr) (m : Byte) (s : State) :
    storesRun (s.stack k - BitVec.ofNat 16 (bytesMoved m)) (pushedBytes k m s) s (pushMask k m s) := by
  obtain ⟨-, r, hr, hrun⟩ := pushMask_spec k m s
  rw [hr]
  exact storesRun_onto _ (storesRun_of_runStored hrun)

/-- A stored run says nothing of the tick count. -/
theorem storesRun_tick {base : Word} {bytes : List Byte} {s t : State} (h : storesRun base bytes s t) (n : Nat) :
    storesRun base bytes s (t.tick n) :=
  storesRun_of_eq h rfl

/-- Settles O53: `pushMask` on each stack, ticked. -/
theorem push : Obligations.Push := by
  intro s m n
  refine ⟨⟨_, rfl, ?_, pushedBytes_length .s m s, storesRun_tick (pushMask_stores .s m s) _⟩,
    ⟨_, rfl, ?_, pushedBytes_length .u m s, storesRun_tick (pushMask_stores .u m s) _⟩⟩
  · exact congrArg (State.tick · (5 + n)) (pushMask_frame .s m s)
  · exact congrArg (State.tick · (5 + n)) (pushMask_frame .u m s)

/-- A software interrupt stores its frame below S and sets CC and PC, wherever the stack lies (R551-R553). -/
theorem takeException_entire_stores (setI setF : Bool) {va : Word} (h : 0xFFF0 ≤ va.toNat) (h2 : va.toNat < 0xFFFF)
    (n : Nat) (s : State) :
    let t := (takeException .entire setI setF va s).tick n
    storesRun (s.sp - 12) (entireBytes { s.cc with e := true } s) s t ∧
    t = { storeFrame (busFrame s t) t with
      sp := s.sp - 12, cc := { s.cc with e := true, i := s.cc.i || setI, f := s.cc.f || setF }, pc := s.vector va
      ticks := s.ticks + n } := by
  obtain ⟨m, hm, hrun⟩ := takeException_entire setI setF h h2 s
  rw [hm]
  exact ⟨storesRun_tick (storesRun_onto _ (storesRun_of_runStored hrun)) n, rfl⟩

/-- Settles O57: the three software interrupts are `takeException_entire_stores` with their masks and vectors. -/
theorem softwareInterrupts : Obligations.SoftwareInterrupts := by
  intro s bytes
  have hswi := takeException_entire_stores true true (va := 0xFFFA) (by decide) (by decide) 19 s
  have hswi2 := takeException_entire_stores false false (va := 0xFFF4) (by decide) (by decide) 20 s
  have hswi3 := takeException_entire_stores false false (va := 0xFFF2) (by decide) (by decide) 20 s
  simp only [Bool.or_true] at hswi
  simp only [Bool.or_false] at hswi2 hswi3
  exact ⟨⟨_, rfl, hswi⟩, ⟨_, rfl, hswi2⟩, ⟨_, rfl, hswi3⟩⟩

section
variable {s : State} {r1 r2 : Reg}

/-- TFR by whether the pair is defined (R509, R510). -/
theorem exec_tfr_defined (h : r1.isWord = r2.isWord) : exec (.tfr r1 r2) s = .next ((s.setReg r2 (s.reg r1)).tick 6) :=
  if_pos (beq_iff_eq.mpr h)

theorem exec_tfr_undefined (h : r1.isWord ≠ r2.isWord) :
    exec (.tfr r1 r2) s = .fault (.malformedOperand (pairByte r1 r2) s) :=
  if_neg (mt beq_iff_eq.mp h)

/-- EXG by whether the pair is defined (R509, R511). -/
theorem exec_exg_defined (h : r1.isWord = r2.isWord) :
    exec (.exg r1 r2) s = .next (((s.setReg r1 (s.reg r2)).setReg r2 (s.reg r1)).tick 8) :=
  if_pos (beq_iff_eq.mpr h)

theorem exec_exg_undefined (h : r1.isWord ≠ r2.isWord) :
    exec (.exg r1 r2) s = .fault (.malformedOperand (pairByte r1 r2) s) :=
  if_neg (mt beq_iff_eq.mp h)

/-- The second write of an exchange leaves the first one's register, or writes the same value to it (R511). -/
theorem reg_exchange_first (h : r1.isWord = r2.isWord) :
    ((s.setReg r1 (s.reg r2)).setReg r2 (s.reg r1)).reg r1 = s.reg r2 := by
  by_cases hr : r1 = r2
  · subst hr
    exact reg_setReg_same (s.setReg r1 (s.reg r1)) s r1 r1 rfl
  · rw [reg_setReg_other _ _ _ _ (sharesStorage_sameWidth r1 r2 h hr), reg_setReg_same s s r1 r2 h.symm]

end

@[simp] theorem reg_tick (s : State) (n : Nat) (q : Reg) : (s.tick n).reg q = s.reg q := by
  cases q <;> rfl

/-- Two registers written one after the other change the register file alone. -/
theorem setReg_setReg_frame (s : State) (r1 r2 : Reg) (v1 v2 : Word) :
    let t := (s.setReg r1 v1).setReg r2 v2
    t = { s with
      a := t.a, b := t.b, x := t.x, y := t.y, u := t.u, sp := t.sp, pc := t.pc, dp := t.dp, cc := t.cc } := by
  intro t
  rw [show t = _ from setReg_frame (s.setReg r1 v1) r2 v2, setReg_frame s r1 v1]

/-- Settles O56: `setReg` once or twice, read by `reg_setReg_same` and `reg_setReg_other`; an undefined pair faults. -/
theorem transferAndExchange : Obligations.TransferAndExchange := by
  intro s r1 r2
  refine ⟨fun h => ⟨⟨_, exec_tfr_defined h, ?tfrTo, fun q hq => ?tfrOther, ?tfrFrame⟩,
    ⟨_, exec_exg_defined h, ?exgFirst, ?exgSecond, fun q hq1 hq2 => ?exgOther, ?exgFrame⟩⟩,
    fun h => ⟨exec_tfr_undefined h, exec_exg_undefined h⟩⟩
  case tfrTo => rw [reg_tick, reg_setReg_same s s r2 r1 h]
  case tfrOther => rw [reg_tick, reg_setReg_other _ _ _ _ hq]
  case tfrFrame => exact congrArg (State.tick · 6) (setReg_frame s r2 (s.reg r1))
  case exgFirst => rw [reg_tick, reg_exchange_first h]
  case exgSecond => rw [reg_tick, reg_setReg_same _ s r2 r1 h]
  case exgOther => rw [reg_tick, reg_setReg_other _ _ _ _ hq2, reg_setReg_other _ _ _ _ hq1]
  case exgFrame => exact congrArg (State.tick · 8) (setReg_setReg_frame s r1 r2 (s.reg r2) (s.reg r1))

end Sys2Proof.Machine
end

section
/-! SUPPORT. A pull mask register by register: which registers it takes, from which byte above the stack pointer, and what
it gives back of a push of the same mask (R501, R503, R505, R507). An entire frame is the push of every register. -/

namespace Sys2Proof.Machine

/-- Bytes a mask moves for the registers below bit `i`: where the register of bit `i` lies above the stack pointer. -/
def bytesBelow (m : Byte) (i : Nat) : Nat := bytesMoved (m &&& BitVec.ofNat 8 (2 ^ i - 1))

/-- The bytes below each bit, as the mask is walked from bit 0 upward. -/
theorem bytesBelow_walk (m : Byte) :
    bytesBelow m 0 = 0 ∧
    bytesBelow m 1 = bytesBelow m 0 + (m.getLsbD 0).toNat ∧ bytesBelow m 2 = bytesBelow m 1 + (m.getLsbD 1).toNat ∧
    bytesBelow m 3 = bytesBelow m 2 + (m.getLsbD 2).toNat ∧ bytesBelow m 4 = bytesBelow m 3 + (m.getLsbD 3).toNat ∧
    bytesBelow m 5 = bytesBelow m 4 + 2 * (m.getLsbD 4).toNat ∧
    bytesBelow m 6 = bytesBelow m 5 + 2 * (m.getLsbD 5).toNat ∧
    bytesBelow m 7 = bytesBelow m 6 + 2 * (m.getLsbD 6).toNat ∧
    bytesMoved m = bytesBelow m 7 + 2 * (m.getLsbD 7).toNat := by
  simp [bytesBelow, bytesMoved]
  omega

/-- `s` with the registers a mask selects taken from `r`, where `k` is the stack pulled from. -/
def selected (k : StackPtr) (m : Byte) (r s : State) : State :=
  { s with
    cc := if m.getLsbD 0 then r.cc else s.cc, a := if m.getLsbD 1 then r.a else s.a
    b := if m.getLsbD 2 then r.b else s.b, dp := if m.getLsbD 3 then r.dp else s.dp
    x := if m.getLsbD 4 then r.x else s.x, y := if m.getLsbD 5 then r.y else s.y
    pc := if m.getLsbD 7 then r.pc else s.pc }.setStack k.other
      (if m.getLsbD 6 then r.stack k.other else s.stack k.other)

/-- Two states with the same values in the registers a mask selects. -/
structure AgreeOn (k : StackPtr) (m : Byte) (r r' : State) : Prop where
  cc : m.getLsbD 0 = true → r.cc = r'.cc
  a : m.getLsbD 1 = true → r.a = r'.a
  b : m.getLsbD 2 = true → r.b = r'.b
  dp : m.getLsbD 3 = true → r.dp = r'.dp
  x : m.getLsbD 4 = true → r.x = r'.x
  y : m.getLsbD 5 = true → r.y = r'.y
  other : m.getLsbD 6 = true → r.stack k.other = r'.stack k.other
  pc : m.getLsbD 7 = true → r.pc = r'.pc

theorem selected_congr {k : StackPtr} {m : Byte} {r r' : State} (h : AgreeOn k m r r') (s : State) :
    selected k m r s = selected k m r' s := by
  have pick {α : Type} {c : Bool} {v w : α} (u : α) (h : c = true → v = w) : (if c then v else u) = if c then w else u :=
    ite_congr rfl h fun _ => rfl
  simp only [selected, pick _ h.cc, pick _ h.a, pick _ h.b, pick _ h.dp, pick _ h.x, pick _ h.y, pick _ h.other,
    pick _ h.pc]

/-- `s` with each register at the bytes of its place above the stack pointer `k`. -/
def atStack (k : StackPtr) (m : Byte) (s : State) : State :=
  let at' := s.byteAt (s.stack k)
  { s with
    cc := CC.ofByte (at' (bytesBelow m 0)), a := at' (bytesBelow m 1), b := at' (bytesBelow m 2)
    dp := at' (bytesBelow m 3), x := word (at' (bytesBelow m 4)) (at' (bytesBelow m 4 + 1))
    y := word (at' (bytesBelow m 5)) (at' (bytesBelow m 5 + 1))
    pc := word (at' (bytesBelow m 7)) (at' (bytesBelow m 7 + 1)) }.setStack k.other
      (word (at' (bytesBelow m 6)) (at' (bytesBelow m 6 + 1)))

/-! ### One register pulled -/

/-- A state reached by pulling `n` of the `total` bytes above the stack pointer of `s`: the registers are those of `r`, and
no device saw an access where those bytes are plain memory. -/
structure Pulled (k : StackPtr) (total n : Nat) (s r t : State) : Prop where
  frame : t = (busFrame r t).setStack k (s.stack k + BitVec.ofNat 16 n)
  alike : readsAlike s r
  plain : s.plainRun (s.stack k) total = true → busFrame s t = s

/-- A register of the pull mask: a write of it leaves the bus, the memory and the stack pointer `k` alone. -/
structure PulledRegister {α : Type} (k : StackPtr) (get : State → α) (set : State → α → State) : Prop where
  set_get : ∀ r, set r (get r) = r
  commutes : ∀ r q w v, set ((busFrame r q).setStack k w) v = (busFrame (set r v) q).setStack k w
  alike : ∀ {s r} v, readsAlike s r → readsAlike s (set r v)

theorem readsAlike.setStack {s r : State} (h : readsAlike s r) (k : StackPtr) (v : Word) :
    readsAlike s (r.setStack k v) := by
  cases k <;> exact h

theorem busFrame_setStack (s r q : State) (k : StackPtr) (w : Word) :
    busFrame s ((busFrame r q).setStack k w) = busFrame s q := by
  cases k <;> rfl

section
variable (k : StackPtr)

theorem pulledRegister_cc : PulledRegister k (·.cc.toByte) State.setCCByte :=
  ⟨fun r => by simp [State.setCCByte, State.setCC], fun _ _ _ _ => by cases k <;> rfl, fun _ h => h⟩

theorem pulledRegister_a : PulledRegister k State.a State.setA :=
  ⟨fun _ => rfl, fun _ _ _ _ => by cases k <;> rfl, fun _ h => h⟩

theorem pulledRegister_b : PulledRegister k State.b State.setB :=
  ⟨fun _ => rfl, fun _ _ _ _ => by cases k <;> rfl, fun _ h => h⟩

theorem pulledRegister_dp : PulledRegister k State.dp State.setDp :=
  ⟨fun _ => rfl, fun _ _ _ _ => by cases k <;> rfl, fun _ h => h⟩

theorem pulledRegister_x : PulledRegister k State.x State.setX :=
  ⟨fun _ => rfl, fun _ _ _ _ => by cases k <;> rfl, fun _ h => h⟩

theorem pulledRegister_y : PulledRegister k State.y State.setY :=
  ⟨fun _ => rfl, fun _ _ _ _ => by cases k <;> rfl, fun _ h => h⟩

theorem pulledRegister_other : PulledRegister k (·.stack k.other) (·.setStack k.other) :=
  ⟨fun _ => by cases k <;> rfl, fun _ _ _ _ => by cases k <;> rfl, fun v h => h.setStack k.other v⟩

theorem pulledRegister_pc : PulledRegister k State.pc State.setPc :=
  ⟨fun _ => rfl, fun _ _ _ _ => by cases k <;> rfl, fun _ h => h⟩

end

theorem pulled_refl (k : StackPtr) (total : Nat) (s : State) : Pulled k total 0 s s s where
  frame := by
    rw [show s.stack k + BitVec.ofNat 16 0 = s.stack k from BitVec.add_zero _]
    cases k <;> rfl
  alike := readsAlike_refl s
  plain _ := rfl

section
variable {k : StackPtr} {total n : Nat} {s r t : State}

theorem Pulled.readsAlike (h : Pulled k total n s r t) : readsAlike s t := by
  have hr : Machine.readsAlike s (busFrame r t) := h.alike
  rw [h.frame]
  exact hr.setStack k _

theorem Pulled.stack (h : Pulled k total n s r t) : t.stack k = s.stack k + BitVec.ofNat 16 n := by
  rw [h.frame]
  exact stack_setStack k _ _

/-- One register more, of `w` bytes: `p` is the state after its bytes were read. -/
theorem Pulled.register {α : Type} {get : State → α} {set : State → α → State} (h : Pulled k total n s r t)
    (hset : PulledRegister k get set) {p : State} {w : Nat} (v : α)
    (hp : p = (busFrame t p).setStack k (t.stack k + BitVec.ofNat 16 w))
    (hplain : s.plainRun (s.stack k) total = true → busFrame s p = busFrame s t) :
    Pulled k total (n + w) s (set r v) (set p v) := by
  have hp' : p = (busFrame r p).setStack k (s.stack k + BitVec.ofNat 16 (n + w)) := by
    rw [hp, h.stack, h.frame, BitVec.ofNat_add, ← BitVec.add_assoc]
    cases k <;> rfl
  have hv : set p v = (busFrame (set r v) p).setStack k (s.stack k + BitVec.ofNat 16 (n + w)) := by
    rw [← hset.commutes, ← hp']
  refine ⟨?_, hset.alike v h.alike, fun hrun => ?_⟩
  · rw [hv, busFrame_setStack]
  · rw [hv, busFrame_setStack, hplain hrun, h.plain hrun]

/-- A byte register of a mask, where bit `c` selects it (R501, R503). -/
theorem Pulled.if8 {get : State → Byte} {set : State → Byte → State} (h : Pulled k total n s r t) (c : Bool)
    (hset : PulledRegister k get set) {n' : Nat} (hn : n' = n + c.toNat) (htotal : n' ≤ total) :
    ∃ v, (c = true → s.plainRun (s.stack k) total = true → v = s.byteAt (s.stack k) n) ∧
      Pulled k total n' s (set r (if c then v else get r)) (if c then pullInto8 k set t else t) := by
  subst hn
  cases c
  · refine ⟨s.byteAt (s.stack k) n, nofun, ?_⟩
    simpa only [Bool.toNat_false, Nat.mul_zero, Nat.add_zero, Bool.false_eq_true, if_false, hset.set_get] using h
  · have hpull (hrun : s.plainRun (s.stack k) total = true) := pull8_plain h.readsAlike h.stack hrun htotal
    refine ⟨(pull8 k t).1, fun _ hrun => by rw [hpull hrun], ?_⟩
    refine h.register hset (p := (pull8 k t).2) (pull8 k t).1 (pull8_frame k t) fun hrun => ?_
    rw [hpull hrun]
    cases k <;> rfl

/-- A word register of a mask, where bit `c` selects it (R501, R503). -/
theorem Pulled.if16 {get : State → Word} {set : State → Word → State} (h : Pulled k total n s r t) (c : Bool)
    (hset : PulledRegister k get set) {n' : Nat} (hn : n' = n + 2 * c.toNat) (htotal : n' ≤ total) :
    ∃ v, (c = true → s.plainRun (s.stack k) total = true →
        v = word (s.byteAt (s.stack k) n) (s.byteAt (s.stack k) (n + 1))) ∧
      Pulled k total n' s (set r (if c then v else get r)) (if c then pullInto16 k set t else t) := by
  subst hn
  cases c
  · refine ⟨0, nofun, ?_⟩
    simpa only [Bool.toNat_false, Nat.mul_zero, Nat.add_zero, Bool.false_eq_true, if_false, hset.set_get] using h
  · have hpull (hrun : s.plainRun (s.stack k) total = true) := pull16_plain h.readsAlike h.stack hrun htotal
    refine ⟨(pull16 k t).1, fun _ hrun => by rw [hpull hrun], ?_⟩
    refine h.register hset (p := (pull16 k t).2) (pull16 k t).1 (pull16_frame k t) fun hrun => ?_
    rw [hpull hrun]
    cases k <;> rfl

end

/-! ### Every register of a mask -/

/-- The registers a pull takes, `r` holding what it read for each, and the stack pointer up by the bytes moved; from plain
memory they are the bytes at their places (R501, R503, R505, R507). -/
theorem pullMask_pulled (k : StackPtr) (m : Byte) (s : State) :
    ∃ r, Pulled k (bytesMoved m) (bytesMoved m) s (selected k m r s) (pullMask k m s) ∧
      (s.plainRun (s.stack k) (bytesMoved m) = true → selected k m r s = selected k m (atStack k m s) s) := by
  obtain ⟨w0, w1, w2, w3, w4, w5, w6, w7, w8⟩ := bytesBelow_walk m
  have h := pulled_refl k (bytesMoved m) s
  rw [← w0] at h
  obtain ⟨cc, hcc, h⟩ := h.if8 (m.getLsbD 0) (pulledRegister_cc k) w1 (by omega)
  obtain ⟨a, ha, h⟩ := h.if8 (m.getLsbD 1) (pulledRegister_a k) w2 (by omega)
  obtain ⟨b, hb, h⟩ := h.if8 (m.getLsbD 2) (pulledRegister_b k) w3 (by omega)
  obtain ⟨dp, hdp, h⟩ := h.if8 (m.getLsbD 3) (pulledRegister_dp k) w4 (by omega)
  obtain ⟨x, hx, h⟩ := h.if16 (m.getLsbD 4) (pulledRegister_x k) w5 (by omega)
  obtain ⟨y, hy, h⟩ := h.if16 (m.getLsbD 5) (pulledRegister_y k) w6 (by omega)
  obtain ⟨o, ho, h⟩ := h.if16 (m.getLsbD 6) (pulledRegister_other k) w7 (by omega)
  obtain ⟨pc, hpc, h⟩ := h.if16 (m.getLsbD 7) (pulledRegister_pc k) w8 (by omega)
  refine ⟨{ s with cc := CC.ofByte cc, a := a, b := b, dp := dp, x := x, y := y, pc := pc }.setStack k.other o, ?_, ?_⟩
  · have hbyte : CC.ofByte (if m.getLsbD 0 then cc else s.cc.toByte) =
        if m.getLsbD 0 then CC.ofByte cc else s.cc := by rw [apply_ite CC.ofByte, CC.ofByte_toByte]
    simp only [State.setCCByte, hbyte] at h
    cases k <;> exact h
  · intro hrun
    apply selected_congr
    cases k <;> exact
      { cc := fun h => congrArg CC.ofByte (hcc h hrun), a := (ha · hrun), b := (hb · hrun), dp := (hdp · hrun)
        x := (hx · hrun), y := (hy · hrun), other := (ho · hrun), pc := (hpc · hrun) }

/-- What a pull leaves unchanged: all but the selected registers, the stack pointer and the bus (R505, R507). -/
theorem pullMask_frame (k : StackPtr) (m : Byte) (s : State) : pullMask k m s =
    (busFrame (selected k m (pullMask k m s) s) (pullMask k m s)).setStack k
      (s.stack k + BitVec.ofNat 16 (bytesMoved m)) := by
  obtain ⟨r, h, -⟩ := pullMask_pulled k m s
  have hagree : AgreeOn k m (pullMask k m s) r := by
    rw [h.frame]
    cases k <;> exact
      { cc := (if_pos ·), a := (if_pos ·), b := (if_pos ·), dp := (if_pos ·), x := (if_pos ·), y := (if_pos ·)
        other := (if_pos ·), pc := (if_pos ·) }
  rw [selected_congr hagree]
  exact h.frame

/-- A pull from plain memory (R501, R503). -/
theorem pullMask_plain {k : StackPtr} {m : Byte} {s : State} (hrun : s.plainRun (s.stack k) (bytesMoved m) = true) :
    pullMask k m s =
      (selected k m (atStack k m s) s).setStack k (s.stack k + BitVec.ofNat 16 (bytesMoved m)) := by
  obtain ⟨r, h, hr⟩ := pullMask_pulled k m s
  have hbus : busFrame (selected k m r s) (pullMask k m s) = selected k m r s :=
    calc busFrame (selected k m r s) (pullMask k m s)
      _ = busFrame (selected k m r s) (busFrame s (pullMask k m s)) := rfl
      _ = busFrame (selected k m r s) s := by rw [h.plain hrun]
      _ = selected k m r s := by cases k <;> rfl
  rw [h.frame, hbus, hr hrun]

/-- Settles O54: `pullMask` on each stack, ticked. -/
theorem pull : Obligations.Pull := by
  intro s m n below pick pulled other
  refine ⟨⟨_, rfl, ?_⟩, fun hrun => ?_, ⟨_, rfl, ?_⟩, fun hrun => ?_⟩
  · exact congrArg (State.tick · (5 + n)) (pullMask_frame .s m s)
  · exact congrArg (fun t => Host.Outcome.next (State.tick t (5 + n))) (pullMask_plain (k := .s) hrun)
  · exact congrArg (State.tick · (5 + n)) (pullMask_frame .u m s)
  · exact congrArg (fun t => Host.Outcome.next (State.tick t (5 + n))) (pullMask_plain (k := .u) hrun)

/-! ### A pull after the push of the same mask -/

/-- `f` gives the bytes of a list, from its place `j` on. -/
def Stands (f : Nat → Byte) (j : Nat) (bytes : List Byte) : Prop :=
  ∀ i (h : i < bytes.length), f (j + i) = bytes[i]

section
variable {f : Nat → Byte} {j : Nat} {rest : List Byte}

theorem Stands.tail {v : Byte} (h : Stands f j (v :: rest)) : f j = v ∧ Stands f (j + 1) rest := by
  refine ⟨h 0 (Nat.zero_lt_succ _), fun i hi => ?_⟩
  rw [Nat.add_assoc, Nat.add_comm 1 i]
  exact h (i + 1) (Nat.succ_lt_succ hi)

/-- A byte register of a mask. -/
theorem Stands.if8 {c : Bool} {v : Byte} (h : Stands f j ((if c then [v] else []) ++ rest)) {j' : Nat}
    (hj : j' = j + c.toNat) : (c = true → f j = v) ∧ Stands f j' rest := by
  subst hj
  cases c
  · exact ⟨nofun, h⟩
  · exact ⟨fun _ => h.tail.1, h.tail.2⟩

/-- A word register of a mask. -/
theorem Stands.if16 {c : Bool} {w : Word} (h : Stands f j ((if c then [hiByte w, loByte w] else []) ++ rest)) {j' : Nat}
    (hj : j' = j + 2 * c.toNat) : (c = true → word (f j) (f (j + 1)) = w) ∧ Stands f j' rest := by
  subst hj
  cases c
  · exact ⟨nofun, h⟩
  · obtain ⟨hhi, hlo, hrest⟩ := h.tail.imp_right Stands.tail
    exact ⟨fun _ => by rw [hhi, hlo, word_hiByte_loByte], hrest⟩

end

/-- Where the bytes a push of the mask stores stand above the stack pointer, each register finds its own. -/
theorem agreeOn_atStack {k : StackPtr} {m : Byte} {s t : State}
    (h : Stands (t.byteAt (t.stack k)) 0 (pushedBytes k m s)) : AgreeOn k m (atStack k m t) s := by
  obtain ⟨w0, w1, w2, w3, w4, w5, w6, w7, w8⟩ := bytesBelow_walk m
  rw [← w0, ← List.append_nil (pushedBytes k m s)] at h
  simp only [pushedBytes, List.append_assoc] at h
  obtain ⟨hcc, h⟩ := h.if8 w1
  obtain ⟨ha, h⟩ := h.if8 w2
  obtain ⟨hb, h⟩ := h.if8 w3
  obtain ⟨hdp, h⟩ := h.if8 w4
  obtain ⟨hx, h⟩ := h.if16 w5
  obtain ⟨hy, h⟩ := h.if16 w6
  obtain ⟨ho, h⟩ := h.if16 w7
  obtain ⟨hpc, -⟩ := h.if16 w8
  have hcc' (hm : m.getLsbD 0 = true) : CC.ofByte (t.byteAt (t.stack k) (bytesBelow m 0)) = s.cc := by
    rw [hcc hm, CC.ofByte_toByte]
  cases k <;> exact { cc := hcc', a := ha, b := hb, dp := hdp, x := hx, y := hy, other := ho, pc := hpc }

/-- The bytes of a push of the mask in RAM above the stack pointer: the pull restores the selected registers. -/
theorem pullMask_restores {k : StackPtr} {m : Byte} {s t : State} (hrun : t.ramRun (t.stack k) (bytesMoved m) = true)
    (hbytes : t.ramBytes (t.stack k) (bytesMoved m) = (pushedBytes k m s).map some) :
    pullMask k m t = (selected k m s t).setStack k (t.stack k + BitVec.ofNat 16 (bytesMoved m)) := by
  have hlen := pushedBytes_length k m s
  have hstands : Stands (t.byteAt (t.stack k)) 0 (pushedBytes k m s) := fun i hi => by
    rw [Nat.zero_add]
    exact byteAt_ramBytes hlen hbytes i (hlen ▸ hi)
  rw [pullMask_plain (plainRun_of_ramRun hrun), selected_congr (agreeOn_atStack hstands)]

/-- A push in RAM changes the stack pointer and RAM alone, where its bytes then stand (R500). -/
theorem pushMask_ram {k : StackPtr} {m : Byte} {s : State}
    (hrun : s.ramRun (s.stack k - BitVec.ofNat 16 (bytesMoved m)) (bytesMoved m) = true) :
    let base := s.stack k - BitVec.ofNat 16 (bytesMoved m)
    pushMask k m s = { s.setStack k base with ram := (pushMask k m s).ram } ∧
      (pushMask k m s).ramBytes base (bytesMoved m) = (pushedBytes k m s).map some := by
  obtain ⟨hlen, r, hr, hstored⟩ := pushMask_spec k m s
  rw [← hlen] at hrun hr hstored ⊢
  have hmmu (v : Word) : (s.setStack k v).mmu = s.mmu := by cases k <;> rfl
  have hbus (v : Word) : busFrame (s.setStack k v) s = s.setStack k v := by cases k <;> rfl
  have hpush := hr.trans (onto_ram hstored hrun (hmmu _) (hbus _))
  refine ⟨by rw [hpush], (bytes_of_runStored hstored hrun ?_ ?_).1⟩
  · rw [hpush]
    exact hmmu _
  · rw [hpush]

/-- A push and the pull of the same mask, ticks between them, with the stack in RAM. -/
theorem pullMask_pushMask {k : StackPtr} {m : Byte} {s : State}
    (hrun : s.ramRun (s.stack k - BitVec.ofNat 16 (bytesMoved m)) (bytesMoved m) = true) (n : Nat) :
    pullMask k m ((pushMask k m s).tick n) = { s with ram := (pushMask k m s).ram, ticks := s.ticks + n } := by
  obtain ⟨hpush, hbytes⟩ := pushMask_ram hrun
  generalize pushMask k m s = p at hpush hbytes ⊢
  have hmmu : (p.tick n).mmu = s.mmu := by
    rw [hpush]
    cases k <;> rfl
  have hstack : (p.tick n).stack k = s.stack k - BitVec.ofNat 16 (bytesMoved m) := by
    rw [hpush]
    cases k <;> rfl
  have hpull := pullMask_restores (s := s) (t := p.tick n) (k := k) (m := m)
    (by rw [hstack, ramRun_mmu hmmu]; exact hrun)
    (by rw [hstack, ← hbytes]; exact ramBytes_congr (s := p.tick n) (t := p) rfl rfl _ _)
  rw [hpull, hstack, BitVec.sub_add_cancel, hpush]
  cases k <;> simp [selected, State.setStack, State.stack, StackPtr.other, State.setSp, State.setU, State.tick]

/-- Settles O55: `pullMask_pushMask` on each stack. -/
theorem pushThenPull : Obligations.PushThenPull := by
  intro s m n
  refine ⟨fun hrun => ⟨_, _, rfl, rfl, ?_⟩, fun hrun => ⟨_, _, rfl, rfl, ?_⟩⟩
  · rw [pullMask_pushMask (k := .s) hrun]
    rfl
  · rw [pullMask_pushMask (k := .u) hrun]
    rfl

/-! ### An entire frame is the push of every register -/

/-- An entire frame is what PSHS of the mask 0xFF pushes (R502, R503). -/
theorem entireBytes_eq (cc : CC) (s : State) : entireBytes cc s = pushedBytes .s 0xFF (s.setCC cc) := rfl

/-- RTI of a frame with E set pulls every register (R554). -/
theorem returnFromException_entire {s : State} (h : (pullInto8 .s State.setCCByte s).cc.e = true) :
    returnFromException s = pullMask .s 0xFF s := by
  have bit : ∀ i < 8, (0xFF : Byte).getLsbD i = true := by decide
  have setU : (fun (t : State) v => t.setStack StackPtr.s.other v) = State.setU := rfl
  simp only [returnFromException, h, pullMask, pullEntireState, setU, bit 0, bit 1, bit 2, bit 3, bit 4, bit 5, bit 6,
    bit 7, Nat.reduceLT, if_true]

/-- The E flag RTI pulls is bit 7 of the byte at S (R554). -/
theorem pulled_cc {s : State} (hrun : s.ramRun s.sp 12 = true) :
    (pullInto8 .s State.setCCByte s).cc = CC.ofByte (s.byteAt s.sp 0) := by
  have h := pull8_plain (k := .s) (n := 0) (readsAlike_refl s) (BitVec.add_zero _).symm (plainRun_of_ramRun hrun)
    (by decide)
  rw [pullInto8, h]
  rfl

/-- RTI of an entire frame in RAM with E set: every register is what the frame holds (R554). -/
theorem exec_rti_restores {cc : CC} {s t : State} (he : cc.e = true) (hrun : t.ramRun t.sp 12 = true)
    (hbytes : t.ramBytes t.sp 12 = (entireBytes cc s).map some) :
    exec .rti t = .next { t with
      cc := cc, a := s.a, b := s.b, dp := s.dp, x := s.x, y := s.y, u := s.u, pc := s.pc, sp := t.sp + 12
      ticks := t.ticks + 15 } := by
  have hpulled : (pullInto8 .s State.setCCByte t).cc.e = true := by
    rw [pulled_cc hrun, byteAt_ramBytes (entireBytes_length cc s) hbytes 0 (by decide)]
    exact (congrArg CC.e (CC.ofByte_toByte cc)).trans he
  have hrti : exec .rti t = .next ((returnFromException t).tick
      (if (pullInto8 .s State.setCCByte t).cc.e then 15 else 6)) := rfl
  rw [entireBytes_eq] at hbytes
  rw [hrti, hpulled, returnFromException_entire hpulled, pullMask_restores (k := .s) hrun hbytes]
  rfl

/-- Taking an exception with an entire frame in RAM, and RTI (R502, R551-R554). -/
theorem exec_rti_takeException {setI setF : Bool} {va : Word} (h : 0xFFF0 ≤ va.toNat) (h2 : va.toNat < 0xFFFF)
    {s : State} (hrun : s.ramRun (s.sp - 12) 12 = true) (n : Nat) :
    let t := (takeException .entire setI setF va s).tick n
    exec .rti t = .next { s with ram := t.ram, cc := { s.cc with e := true }, ticks := t.ticks + 15 } := by
  intro t
  obtain ⟨m, hm, hstored⟩ := takeException_entire setI setF h h2 s
  have ht : t = { s with
      sp := s.sp - 12, cc := { s.cc with e := true, i := s.cc.i || setI, f := s.cc.f || setF }, pc := s.vector va
      ram := m.ram, ticks := s.ticks + n } := congrArg (State.tick · n) (hm.trans (onto_ram hstored hrun rfl rfl))
  have hsp : t.sp = s.sp - 12 := by rw [ht]
  have hmmu : t.mmu = s.mmu := by
    rw [ht]
    rfl
  have hbytes := (bytes_of_runStored (t := t) hstored hrun hmmu (by rw [ht])).1
  rw [exec_rti_restores (s := s) (cc := { s.cc with e := true }) rfl (by rw [hsp, ramRun_mmu hmmu]; exact hrun)
    (by rw [hsp]; exact hbytes), hsp, BitVec.sub_add_cancel, ht]

/-- Settles O59: each software interrupt is `takeException` with an entire frame. -/
theorem interruptThenReturn : Obligations.InterruptThenReturn := by
  intro s hrun i hi
  simp only [List.mem_cons, List.not_mem_nil, or_false] at hi
  rcases hi with rfl | rfl | rfl
  · exact ⟨_, _, rfl, exec_rti_takeException (by decide) (by decide) hrun 19, rfl⟩
  · exact ⟨_, _, rfl, exec_rti_takeException (by decide) (by decide) hrun 20, rfl⟩
  · exact ⟨_, _, rfl, exec_rti_takeException (by decide) (by decide) hrun 20, rfl⟩

end Sys2Proof.Machine
end

section
/-! SUPPORT. RTI by the E it pulls, as a pull of every register or of CC and PC alone, and the waits (R550, R554-R556). -/

namespace Sys2Proof.Machine

/-! ### Return from interrupt -/

/-- RTI of a frame with E clear pulls CC and PC (R554, R626). -/
theorem returnFromException_reduced {s : State} (h : (pullInto8 .s State.setCCByte s).cc.e = false) :
    returnFromException s = pullMask .s 0x81 s := by
  simp [returnFromException, h, pullMask]

/-- The registers RTI pulls are those of one mask: every one where the pulled E is 1, else CC and PC (R554, R626). -/
theorem returnFromException_eq (s : State) : returnFromException s =
    pullMask .s (if (pullInto8 .s State.setCCByte s).cc.e then 0xFF else 0x81) s := by
  cases h : (pullInto8 .s State.setCCByte s).cc.e
  · exact returnFromException_reduced h
  · exact returnFromException_entire h

theorem pullInto8_cc {set : State → Byte → State} (hset : ∀ t v, (set t v).cc = t.cc) (k : StackPtr) (s : State) :
    (pullInto8 k set s).cc = s.cc := by
  rw [pullInto8, hset, pull8_frame, State.setStack_cc]
  rfl

theorem pullInto16_cc {set : State → Word → State} (hset : ∀ t v, (set t v).cc = t.cc) (k : StackPtr) (s : State) :
    (pullInto16 k set s).cc = s.cc := by
  rw [pullInto16, hset, pull16_frame, State.setStack_cc]
  rfl

theorem pullEntireState_cc (s : State) : (pullEntireState s).cc = s.cc := by
  simp only [pullEntireState, pullInto16_cc State.setU_cc, pullInto16_cc State.setY_cc, pullInto16_cc State.setX_cc,
    pullInto8_cc State.setDp_cc, pullInto8_cc State.setB_cc, pullInto8_cc State.setA_cc]

/-- The CC RTI pulls first is the one it leaves (R554). -/
theorem returnFromException_cc (s : State) : (returnFromException s).cc = (pullInto8 .s State.setCCByte s).cc := by
  rw [returnFromException, pullInto16_cc State.setPc_cc, apply_ite State.cc, pullEntireState_cc, ite_self]

/-- The CC RTI pulls from plain memory is the byte at S (R554). -/
theorem pulled_cc_plain {s : State} {n : Nat} (hrun : s.plainRun s.sp n = true) (hn : 1 ≤ n) :
    (pullInto8 .s State.setCCByte s).cc = CC.ofByte (s.byteAt s.sp 0) := by
  rw [pullInto8, pull8_plain (k := .s) (readsAlike_refl s) (BitVec.add_zero _).symm hrun hn]
  rfl

/-- RTI from plain memory is a pull of the bytes above S by bit 7 of the first (R554). -/
theorem exec_rti_plain {s : State} {e : Bool} {m : Byte} (he : (s.byteAt s.sp 0).getLsbD 7 = e)
    (hm : (if e then 0xFF else 0x81) = m) (hrun : s.plainRun s.sp (bytesMoved m) = true) :
    exec .rti s = .next (((selected .s m (atStack .s m s) s).setSp (s.sp + BitVec.ofNat 16 (bytesMoved m))).tick
      (if e then 15 else 6)) := by
  have hmoved : 1 ≤ bytesMoved m := by
    rw [← hm]
    cases e <;> decide
  have hpulled : (pullInto8 .s State.setCCByte s).cc.e = e := (congrArg CC.e (pulled_cc_plain hrun hmoved)).trans he
  have hrti : exec .rti s = .next ((returnFromException s).tick
      (if (pullInto8 .s State.setCCByte s).cc.e then 15 else 6)) := rfl
  rw [hrti, returnFromException_eq, hpulled, hm, pullMask_plain (k := .s) hrun]
  rfl

/-- What RTI leaves unchanged, by the E it leaves in CC (R554). -/
theorem returnFromException_frame {s t : State} (ht : returnFromException s = t) : t = { busFrame s t with
    a := if t.cc.e then t.a else s.a, b := if t.cc.e then t.b else s.b, dp := if t.cc.e then t.dp else s.dp
    x := if t.cc.e then t.x else s.x, y := if t.cc.e then t.y else s.y, u := if t.cc.e then t.u else s.u
    cc := t.cc, pc := t.pc, sp := s.sp + (if t.cc.e then 12 else 3) } := by
  have hpull := returnFromException_eq s
  rw [← returnFromException_cc, ht] at hpull
  have hframe := pullMask_frame .s (if t.cc.e then 0xFF else 0x81) s
  rw [← hpull] at hframe
  cases h : t.cc.e <;> rw [h] at hframe <;> exact hframe

/-- Settles O58: RTI is the pull of the mask its E selects, with the frame of a pull and the bytes of one from plain
memory. -/
theorem returnFromInterrupt : Obligations.ReturnFromInterrupt := by
  intro s at'
  refine ⟨⟨_, rfl, ?frame⟩, fun hrun he => exec_rti_plain (m := 0xFF) he rfl hrun,
    fun hrun he => exec_rti_plain (m := 0x81) he rfl hrun⟩
  case frame =>
    rw [← returnFromException_cc]
    generalize ht : returnFromException s = t
    exact congrArg (State.tick · _) (returnFromException_frame ht)

/-! ### Waits -/

/-- E set in a CC is bit 7 set in its byte (R60, R68). -/
theorem CC.setE_eq_ofByte (cc : CC) : { cc with e := true } = CC.ofByte (cc.toByte ||| 0x80) := by
  rw [← CC.orByte_eq]
  simp [CC.orByte]

/-- The CC of a CWAI: the flags its byte keeps, and E (R555). -/
theorem CC.andByte_setE (cc : CC) (m : Byte) : { cc.andByte m with e := true } = CC.ofByte (cc.toByte &&& m ||| 0x80) := by
  rw [CC.setE_eq_ofByte, CC.andByte_eq, CC.toByte_ofByte]

/-- Settles O60: CWAI is `pushEntireState` of the state with its CC, then the wait; SYNC and NOP store nothing. -/
theorem waitsAndNop : Obligations.WaitsAndNop := by
  refine fun s => ⟨?cwai, rfl, rfl⟩
  case cwai =>
    intro m cc
    have hcc : { s.cc.andByte m with e := true } = cc := CC.andByte_setE s.cc m
    have hexec : exec (.cwai m) s = .next ({ pushEntireState (s.setCC cc) with cwaiWait := true }.tick 20) := by
      rw [← hcc]
      rfl
    obtain ⟨r, hpush, hrun⟩ := pushEntireState_spec (s.setCC cc)
    rw [hpush] at hexec
    exact ⟨_, hexec, storesRun_of_eq (storesRun_of_runStored (s := s) hrun) rfl, rfl⟩

end Sys2Proof.Machine
end

section
/-! SUPPORT. The service point with nothing to service, and from a CWAI wait, where the first class serviced pushes nothing
(R612-R623, R627); the wait step, which is a tick and the service point (R601). -/

namespace Sys2Proof.Machine

theorem service_of_stages {s r t u v : State} (hr : releaseSync s = r) (h1 : irqStage r = t) (h2 : firqStage t = u)
    (h3 : nmiStage u = v) : service s = v := by
  rw [service_stages, hr, h1, h2, h3]

theorem releaseSync_of_not_waiting {s : State} (h : s.syncWait = false) : releaseSync s = s := by
  simp [releaseSync, h]

/-- Settles O16: the FIRQ stage pushes its frame, the others are idle. -/
theorem firqService : Obligations.FirqService := by
  intro s hc hf hfm hi hn
  have h := servicePushes_stages (s := s) (by simp [hf]) (irqStage_idle hi) (firqStage_pushes hc hf hfm)
    (nmiStage_idle hn)
  exact h

/-! ### Nothing to service -/

/-- Settles O14: no stage finds an unmasked latch, and `releaseSync_eq` tells when a SYNC wait ends. -/
theorem maskedInterruptsStayPending : Obligations.MaskedInterruptsStayPending := by
  intro s hi hf hn
  have hsync : (s.syncWait && !(s.irqLatch || s.firqLatch || s.nmiLatch)) =
      (s.syncWait && !s.irqLatch && !s.firqLatch) := by simp [hn, Bool.and_assoc]
  have hrelease := releaseSync_eq s
  rw [hsync] at hrelease
  exact service_of_stages hrelease (irqStage_off hi) (firqStage_off hf) (nmiStage_off hn)

/-- With no latch set the service point does nothing, whatever the waits (R612-R614, R627). -/
theorem service_of_no_latch {s : State} (hi : s.irqLatch = false) (hf : s.firqLatch = false) (hn : s.nmiLatch = false) :
    service s = s := by
  have hrelease : releaseSync s = s := by simp [releaseSync, hi, hf, hn]
  exact service_of_stages hrelease (irqStage_off (by simp [hi])) (firqStage_off (by simp [hf])) (nmiStage_off hn)

/-- A waiting machine takes no other branch of `step_cases` (R601). -/
theorem step_of_waiting {s : State} (hw : (s.cwaiWait || s.syncWait) = true) : step s = .next (service (s.tick 1)) := by
  rcases step_cases s with ⟨-, e⟩ | ⟨hw', -⟩
  · exact e
  · cases hw.symm.trans hw'

/-- Settles O13: `step_of_waiting`, and the service point does nothing where no latch is set. -/
theorem waitStep_ticks_and_services : Obligations.WaitStep := by
  intro s hw
  have hstep := step_of_waiting hw
  refine ⟨hstep, fun hi hf hn => ?_⟩
  rw [hstep, service_of_no_latch (s := s.tick 1) hi hf hn]
  rfl

/-! ### The first service of a CWAI wait -/

/-- What IRQ service makes of a state in a CWAI wait, whose frame is pushed already (R619, R622). -/
def cwaiIrq (s : State) : State :=
  { s with cc := { s.cc with i := true }, pc := s.vector 0xFFF8, irqLatch := false, cwaiWait := false }

/-- What FIRQ service makes of a state in a CWAI wait (R620, R622). -/
def cwaiFirq (s : State) : State :=
  { s with cc := { s.cc with i := true, f := true }, pc := s.vector 0xFFF6, firqLatch := false, cwaiWait := false }

/-- What NMI service makes of a state in a CWAI wait (R621, R622). -/
def cwaiNmi (s : State) : State :=
  { s with cc := { s.cc with i := true, f := true }, pc := s.vector 0xFFFC, nmiLatch := false, cwaiWait := false }

theorem pushes_nothing {s t : State} (hmmu : t.mmu = s.mmu) (hram : t.ram = s.ram) (hsp : t.sp = s.sp) :
    Pushes s [] t t := by
  have e : t.sp = s.sp - BitVec.ofNat 16 0 := hsp.trans (BitVec.sub_zero _).symm
  refine fun _ => ⟨?_, hmmu, e, rfl, fun _ _ => by rw [hram]⟩
  rw [List.length_nil, ← e]

section
variable {t : State} (hc : t.cwaiWait = true)
include hc

theorem irqStage_cwai (hl : t.irqLatch = true) (hm : t.cc.i = false) : irqStage t = cwaiIrq t :=
  (irqStage_on hl hm).trans (serviceIrq_cwai hc)

theorem firqStage_cwai (hl : t.firqLatch = true) (hm : t.cc.f = false) : firqStage t = cwaiFirq t :=
  (firqStage_on hl hm).trans (serviceFirq_cwai hc)

theorem nmiStage_cwai (hl : t.nmiLatch = true) : nmiStage t = cwaiNmi t :=
  (nmiStage_on hl).trans (serviceNmi_cwai hc)

theorem irqStage_pushes_nothing (hl : t.irqLatch = true) (hm : t.cc.i = false) :
    StagePushes irqStage t [] (cwaiIrq t) := by
  refine ⟨Nat.zero_le _, fun ram sp => ?_⟩
  rw [irqStage_cwai (t := { t with ram := ram, sp := sp }) hc hl hm]
  exact pushes_nothing rfl rfl rfl

theorem firqStage_pushes_nothing (hl : t.firqLatch = true) (hm : t.cc.f = false) :
    StagePushes firqStage t [] (cwaiFirq t) := by
  refine ⟨Nat.zero_le _, fun ram sp => ?_⟩
  rw [firqStage_cwai (t := { t with ram := ram, sp := sp }) hc hl hm]
  exact pushes_nothing rfl rfl rfl

end

/-- The stages of a service point outside a SYNC wait, which leaves the state as it is before them. -/
theorem servicePushes_of_not_syncWait {s t u v : State} {irq firq nmi : List Byte} (hy : s.syncWait = false)
    (hl : (s.irqLatch || s.firqLatch || s.nmiLatch) = true) (h1 : StagePushes irqStage s irq t)
    (h2 : StagePushes firqStage t firq u) (h3 : StagePushes nmiStage u nmi v) :
    servicePushes s (nmi ++ firq ++ irq) v := by
  have hs : { s with syncWait := false } = s := by rw [← hy]
  exact servicePushes_stages hl (hs.symm ▸ h1) h2 h3

/-- Settles O18: the first stage that services ends the wait and pushes nothing, so that a later one pushes its frame. -/
theorem serviceFromCwai : Obligations.ServiceFromCwai := by
  intro s hc hy
  have hr := releaseSync_of_not_waiting hy
  refine ⟨fun hi him hf hn => ?irq, fun hf hfm hi hn => ?firq, fun hn hi hf => ?nmi, fun hi him hf hfm hn => ?irqFirq,
    fun hi him hf hn => ?irqNmi, fun hf hfm hi hn => ?firqNmi, fun hi him hf hfm hn => ?all⟩
  case irq => exact service_of_stages hr (irqStage_cwai hc hi him) (firqStage_off hf) (nmiStage_off hn)
  case firq => exact service_of_stages hr (irqStage_off hi) (firqStage_cwai hc hf hfm) (nmiStage_off hn)
  case nmi => exact service_of_stages hr (irqStage_off hi) (firqStage_off hf) (nmiStage_cwai hc hn)
  case irqFirq =>
    have h := servicePushes_of_not_syncWait hy (by rw [hi]; rfl) (irqStage_pushes_nothing hc hi him)
      (firqStage_pushes rfl hf hfm) (nmiStage_idle hn)
    exact h
  case irqNmi =>
    have h := servicePushes_of_not_syncWait hy (by rw [hi]; rfl) (irqStage_pushes_nothing hc hi him)
      (firqStage_idle hf) (nmiStage_pushes rfl hn)
    exact h
  case firqNmi =>
    have h := servicePushes_of_not_syncWait hy (by rw [hn, Bool.or_true]) (irqStage_idle hi)
      (firqStage_pushes_nothing hc hf hfm) (nmiStage_pushes rfl hn)
    exact h
  case all =>
    have h := servicePushes_of_not_syncWait hy (by rw [hi]; rfl) (irqStage_pushes_nothing hc hi him)
      (firqStage_pushes rfl hf hfm) (nmiStage_pushes rfl hn)
    exact h

/-! ### The latches -/

/-- Settles O22: setting a latch twice is setting it once, and `exec_completes` tells that no latch is cleared. -/
theorem latchesWaitForService : Obligations.LatchesWaitForService := by
  refine ⟨fun s => ⟨rfl, rfl, rfl, rfl, rfl, rfl⟩, fun i s t h => ?_⟩
  have hevolves := (exec_completes h).1.1
  exact ⟨hevolves.irq, hevolves.firq, hevolves.nmi⟩

end Sys2Proof.Machine
end

section
/-! SUPPORT. What the bytes the decoder refuses look like: the opcode bytes alone, or opcode bytes and a postbyte (R162,
R603-R606); and that it makes well-formed instructions only, which run to a next state (R509, R602). -/

namespace Sys2Proof

open Sys2Proof.Machine

/-- The bytes of an opcode value: one, or 0x10 or 0x11 and one more (R161, R162). -/
def OpcodeBytes (op : Word) (bs : List Byte) : Prop :=
  (bs = [op.extractLsb' 0 8] ∧ op.toNat < 256) ∨ (bs = [hiByte op, loByte op] ∧ (hiByte op = 0x10 ∨ hiByte op = 0x11))

theorem opcodeBytes_page1 (b : Byte) : OpcodeBytes (word 0 b) [b] := by
  refine .inl ⟨by rw [← loByte, loByte_word], ?_⟩
  rw [toNat_word]
  simpa using b.isLt

theorem opcodeBytes_otherPage {b1 : Byte} (b2 : Byte) (h : b1 = 0x10 ∨ b1 = 0x11) :
    OpcodeBytes (word b1 b2) [b1, b2] := by
  refine .inr ⟨?_, ?_⟩
  · rw [hiByte_word, loByte_word]
  · rwa [hiByte_word]

/-- Bytes that are not cut short begin with the bytes of an opcode value, whose format decodes whatever follows them and
agrees with the encoder (R161-R163). -/
theorem decode_opcode {p : PcrRegBits} {bs : List Byte} (h : decode p bs ≠ .more) :
    ∃ (pre rest : List Byte) (op : Word) (fmt : Option Format), bs = pre ++ rest ∧ OpcodeBytes op pre ∧
      (∀ r, decode p (pre ++ r) = decodeFormat p op fmt r) ∧ ∀ f, fmt = some f → f.agrees pre := by
  match bs, h with
  | [], h => exact absurd rfl h
  | b :: rest, h =>
    by_cases h10 : b = 0x10
    · subst h10
      cases rest with
      | nil => exact absurd rfl h
      | cons b2 rest =>
        exact ⟨[0x10, b2], rest, _, _, rfl, opcodeBytes_otherPage b2 (.inl rfl), fun r => decode_page2, page2_agrees b2⟩
    · by_cases h11 : b = 0x11
      · subst h11
        cases rest with
        | nil => exact absurd rfl h
        | cons b2 rest =>
          exact ⟨[0x11, b2], rest, _, _, rfl, opcodeBytes_otherPage b2 (.inr rfl), fun r => decode_page3, page3_agrees b2⟩
      · exact ⟨[b], rest, _, _, rfl, opcodeBytes_page1 b, fun r => decode_page1 h10 h11, page1_agrees b⟩

/-- An undefined opcode is refused at its opcode bytes (R603). -/
theorem undefinedOpcode_head {p : PcrRegBits} {bs : List Byte} {op : Word} (h : decode p bs = .undefinedOpcode op) :
    ∃ pre, pre <+: bs ∧ decode p pre = .undefinedOpcode op ∧ OpcodeBytes op pre := by
  obtain ⟨pre, rest, op', fmt, rfl, hop, hdecode, -⟩ := decode_opcode (p := p) (bs := bs) (by rw [h]; nofun)
  obtain ⟨rfl, rfl⟩ := decodeFormat_undefined_iff.mp ((hdecode rest).symm.trans h)
  refine ⟨pre, ⟨rest, rfl⟩, ?_, hop⟩
  simpa [decodeFormat] using hdecode []

/-- Of an indexed operand only the postbyte is refused, never its offset bytes (R605). -/
theorem decodeIndexed_malformed {p : PcrRegBits} {f : Indexed → Instr} {b pb : Byte} {rest : List Byte}
    (h : decodeIndexed p f (b :: rest) = .malformedOperand pb) : b = pb := by
  simp only [decodeIndexed] at h
  cases hp : decodePostbyte p b with
  | done ix => rw [hp] at h; cases h
  | offset8 g =>
    rw [hp] at h
    rcases decodeByte_reads (fun n => f (g n)) rest with e | ⟨i, r, e⟩ <;> cases e.symm.trans h
  | offset16 g =>
    rw [hp] at h
    rcases decodeWord_reads (fun n => f (g n)) rest with e | ⟨i, r, e⟩ <;> cases e.symm.trans h
  | illegal => rw [hp] at h; exact Decoded.malformedOperand.inj h

/-- Operand bytes that are refused are refused at the first of them, the postbyte (R605). -/
theorem decodeFormat_malformed {p : PcrRegBits} {op : Word} {fmt : Option Format} {bs : List Byte} {pb : Byte}
    (h : decodeFormat p op fmt bs = .malformedOperand pb) :
    [pb] <+: bs ∧ decodeFormat p op fmt [pb] = .malformedOperand pb := by
  cases fmt with
  | none => cases h
  | some fmt =>
    cases fmt with
    | inh i => cases h
    | imm8 f | dir f => rcases decodeByte_reads f bs with e | ⟨i, r, e⟩ <;> cases e.symm.trans h
    | imm16 f | ext f => rcases decodeWord_reads f bs with e | ⟨i, r, e⟩ <;> cases e.symm.trans h
    | idx f =>
      cases bs with
      | nil => cases h
      | cons b rest =>
        obtain rfl := decodeIndexed_malformed h
        exact ⟨⟨rest, rfl⟩, decodeIndexed_malformed_iff.mpr (decodeIndexed_malformed_iff.mp h)⟩
    | pair f =>
      cases bs with
      | nil => cases h
      | cons b rest =>
        cases hp : decodePair b with
        | none =>
          cases (decodePairByte_none f hp rest).symm.trans h
          exact ⟨⟨rest, rfl⟩, decodePairByte_none f hp []⟩
        | some rr => cases (decodePairByte_some f hp rest).symm.trans h

/-- A malformed operand is refused at its postbyte, after the opcode bytes (R605). -/
theorem malformedOperand_head {p : PcrRegBits} {bs : List Byte} {pb : Byte} (h : decode p bs = .malformedOperand pb) :
    ∃ pre, pre ++ [pb] <+: bs ∧ decode p (pre ++ [pb]) = .malformedOperand pb := by
  obtain ⟨pre, rest, op, fmt, rfl, -, hdecode, -⟩ := decode_opcode (p := p) (bs := bs) (by rw [h]; nofun)
  obtain ⟨hpb, hformat⟩ := decodeFormat_malformed ((hdecode rest).symm.trans h)
  exact ⟨pre, (List.prefix_append_right_inj pre).mpr hpb, (hdecode [pb]).trans hformat⟩

/-! ### Well-formed instructions (R509) -/

theorem decodeIndexed_makes {p : PcrRegBits} {f : Indexed → Instr} {bs rest : List Byte} {i : Instr}
    (h : decodeIndexed p f bs = .instr i rest) : ∃ ix, i = f ix := by
  cases bs with
  | nil => cases h
  | cons pb bs =>
    simp only [decodeIndexed] at h
    cases hp : decodePostbyte p pb with
    | done ix => rw [hp] at h; cases h; exact ⟨ix, rfl⟩
    | offset8 g => rw [hp] at h; obtain ⟨v, rfl, -⟩ := decodeByte_instr h; exact ⟨g v, rfl⟩
    | offset16 g => rw [hp] at h; obtain ⟨v, rfl, -⟩ := decodeWord_instr h; exact ⟨g v, rfl⟩
    | illegal => rw [hp] at h; cases h

/-- Whatever `PCR_REG_BITS` admits, the decoder makes well-formed instructions: it refuses the pairs of EXG and TFR that are
not defined (R509). -/
theorem wf_of_decode {p : PcrRegBits} {bs rest : List Byte} {i : Instr} (h : decode p bs = .instr i rest) :
    i.wf = true := by
  obtain ⟨pre, bs, op, fmt, rfl, -, hdecode, hagrees⟩ := decode_opcode (p := p) (bs := bs) (by rw [h]; nofun)
  rw [hdecode] at h
  cases fmt with
  | none => cases h
  | some f =>
    have ha := hagrees f rfl
    cases f with
    | inh j => cases h; exact ha.2
    | imm8 f | dir f => obtain ⟨v, rfl, -⟩ := decodeByte_instr h; exact (ha v).2
    | imm16 f | ext f => obtain ⟨v, rfl, -⟩ := decodeWord_instr h; exact (ha v).2
    | idx f => obtain ⟨ix, rfl⟩ := decodeIndexed_makes h; exact (ha ix).2
    | pair f => obtain ⟨r1, r2, rfl, -, hp⟩ := decodePairByte_instr h; exact (ha r1 r2).2.trans hp

end Sys2Proof

namespace Sys2Proof.Machine

/-- EXG and TFR of undefined pairs apart, every instruction ends in a next state (R509, R602). -/
theorem exec_next_of_wf {i : Instr} (s : State) (h : i.wf = true) : ∃ t, exec i s = .next t := by
  cases i with
  | tfr r1 r2 => exact ⟨_, exec_tfr_defined (beq_iff_eq.mp h)⟩
  | exg r1 r2 => exact ⟨_, exec_exg_defined (beq_iff_eq.mp h)⟩
  | _ => exact ⟨_, rfl⟩

/-! ### The step by what the decoder answers -/

/-- What a step makes of the decoder's answer on the bytes fetched, in the state after the fetches (R600-R606). -/
def stepOn : Decoded → State → Result
  | .instr i _, t => thenService (exec i t)
  | .more, _ => .refused .instructionTooLong
  | .undefinedOpcode op, t => .fault (.decodeError op t)
  | .malformedOperand pb, t => .fault (.malformedOperand pb t)

/-- The step is decided where one byte more completes what was cut short: that length is unique (R160, R600, R603-R606). -/
theorem step_eq_stepOn {s : State} {n : Nat} (hw : (s.cwaiWait || s.syncWait) = false)
    (hmore : decode s.cfg.pcrRegBits (fetchBytes n s).1 = .more)
    (hne : decode s.cfg.pcrRegBits (fetchBytes (n + 1) s).1 ≠ .more) :
    step s = stepOn (decode s.cfg.pcrRegBits (fetchBytes (n + 1) s).1) (fetchBytes (n + 1) s).2 := by
  have hlength {m : Nat} := fetch_length_unique (m := m) hmore hne
  rcases step_cases s with ⟨hw', -⟩ | ⟨-, ⟨m, i, rest, hd, hm, e⟩ | ⟨m, op, hd, hm, e⟩ | ⟨m, pb, hd, hm, e⟩ | h5⟩
  · cases hw.symm.trans hw'
  · obtain rfl := hlength hm (by rw [hd]; nofun)
    rw [hd]
    exact e
  · obtain rfl := hlength hm (by rw [hd]; nofun)
    rw [hd]
    exact e
  · obtain rfl := hlength hm (by rw [hd]; nofun)
    rw [hd]
    exact e
  · exact absurd h5 (decode_ne_more (fetchBytes_length 5 s).ge)

/-- Settles O8: `step_of_decode`; `thenService` adds the service point to a next state alone. -/
theorem stepRunsTheDecodedInstruction : Obligations.StepRunsTheDecodedInstruction := by
  intro s n i hc hy hdecode
  rw [step_of_decode (by rw [hc, hy, Bool.or_false]) hdecode]
  cases exec i (fetchBytes n s).2 <;> rfl

/-- Settles O11: `step_eq_stepOn` at each of the two errors. -/
theorem stepStopsAtTheOffendingByte : Obligations.StepStopsAtTheOffendingByte := by
  intro s n hc hy hmore
  have hstep := step_eq_stepOn (by rw [hc, hy, Bool.or_false]) hmore
  refine ⟨fun op hop => ?_, fun pb hpb => ?_⟩
  · rw [hstep (by rw [hop]; nofun), hop]
    rfl
  · rw [hstep (by rw [hpb]; nofun), hpb]
    rfl

/-! ### The outcomes of a step -/

/-- Fetching stops at the first byte at which the bytes are no longer cut short, so that a head of them which is not cut
short is all of them (R603, R605, R609). -/
theorem fetched_eq_of_prefix {s : State} {n : Nat} {pre : List Byte}
    (hmore : decode s.cfg.pcrRegBits (fetchBytes n s).1 = .more) (hpre : pre <+: (fetchBytes (n + 1) s).1)
    (hne : decode s.cfg.pcrRegBits pre ≠ .more) : (fetchBytes (n + 1) s).1 = pre := by
  rw [fetchBytes_succ] at hpre ⊢
  rcases List.prefix_concat_iff.mp hpre with h | ⟨extra, h⟩
  · exact h.symm
  · rw [← h] at hmore
    exact absurd (decode_more_short hmore) hne

/-- A decoded instruction ends in a next state, and its ticks are counted: one at least (R602). -/
theorem thenService_exec_next {p : PcrRegBits} {bs rest : List Byte} {i : Instr} (s : State)
    (h : decode p bs = .instr i rest) : ∃ t, thenService (exec i s) = .next t ∧ s.ticks + 1 ≤ t.ticks := by
  obtain ⟨t, ht⟩ := exec_next_of_wf s (wf_of_decode h)
  refine ⟨service t, by rw [ht]; rfl, ?_⟩
  have hexec : s.ticks + 1 ≤ t.ticks := (exec_completes ht).1.2
  exact hexec.trans (service_serves t).1.ticks

/-- Settles O12: `step_cases`, where a decoded instruction has no error of its own and refused bytes end at the refused
one. -/
theorem stepOutcomes : Obligations.StepOutcomes := by
  intro s
  rcases step_cases s with ⟨-, e⟩ | ⟨-, ⟨n, i, rest, hd, -, e⟩ | ⟨n, op, hd, hmore, e⟩ | ⟨n, pb, hd, hmore, e⟩ | h5⟩
  · exact .inl ⟨_, e, (service_serves (s.tick 1)).1.ticks⟩
  · obtain ⟨t, ht, hticks⟩ := thenService_exec_next (fetchBytes (n + 1) s).2 hd
    have hfetch := (Evolves.fetchBytes (n + 1) s).ticks
    exact .inl ⟨t, e.trans ht, by omega⟩
  · obtain ⟨pre, hpre, hop, hbytes⟩ := undefinedOpcode_head hd
    have hfetched := fetched_eq_of_prefix hmore hpre (by rw [hop]; nofun)
    exact .inr (.inl ⟨n + 1, op, e, hfetched ▸ hbytes⟩)
  · obtain ⟨pre, hpre, hpb⟩ := malformedOperand_head hd
    have hfetched := fetched_eq_of_prefix hmore hpre (by rw [hpb]; nofun)
    exact .inr (.inr ⟨n + 1, pb, e, by rw [hfetched, List.getLast?_concat]⟩)
  · exact absurd h5 (decode_ne_more (fetchBytes_length 5 s).ge)

end Sys2Proof.Machine
end
